-- ==== Sys2Proof/Word.lean ====
section
/-! DEFINITION. The word types of the block: 64-bit register and bus words, bytes of the host bus, and the
12-element vectors the state register file holds (00_scope.md R8, 10_state.md R21). -/

namespace Sys2Proof

/-- Every register and bus word is 64 bits wide (00_scope.md R8). -/
abbrev Word := BitVec 64

/-- One byte lane of the host bus (20_memory.md R42). -/
abbrev Byte := BitVec 8

/-- Twelve words, element 0 first: the shape of the state register file and of every vector the engine
computes (10_state.md R21: "length is always exactly 12"). -/
abbrev Vec := Vector Word 12

end Sys2Proof
end

