-- ==== Sys2Proof/Config.lean ====
section
/-! DEFINITION. What is fixed for one instance of the block: the dimensions the source fixes (00_scope.md R6),
the parameters it leaves open (00_scope.md R7) as constants without a body, and the free values of the hidden
engine state (93_implementation_defined.md I4). -/

namespace Sys2Proof

/-! ### Fixed dimensions (00_scope.md R6) -/

/-- The modulus p = 2^64 − 2^32 + 1 (00_scope.md R6, 40_field_arithmetic.md R80). -/
abbrev Config.P : Nat := 18446744069414584321

/-- `STATE_WIDTH` (R6). -/
def Config.stateWidth : Nat := 12

/-- `CAPACITY`, elements 0..3 (R6). -/
def Config.capacity : Nat := 4

/-- `RATE`, elements 4..11 (R6). -/
def Config.rate : Nat := 8

/-- `DIGEST_SIZE`, elements 4..7 (R6). -/
def Config.digestSize : Nat := 4

/-- `NUM_ROUNDS`, indices 0..6 (R6). -/
def Config.numRounds : Nat := 7

/-- `ALPHA`, the power of the forward S-box (R6). -/
def Config.alpha : Nat := 7

/-- `INV_ALPHA`, the exponent e of the inverse S-box. The literal is normative: 90_conflicts.md C1 and C2. -/
def Config.invAlpha : Nat := 10540996611094048183

/-- `INV_SBOX_MULS`, field multiplications of one inverse S-box (R6). -/
def Config.invSboxMuls : Nat := 72

/-- `MERGE_DOMAIN` (R6; 90_conflicts.md C4: 1, not 8). -/
def Config.mergeDomain : Word := 1

/-- The interface version that ID.VERSION reads (10_state.md R27). -/
def Config.version : Nat := 1

/-! ### The constant tables (10_state.md R30, R31; 92_eei_decisions.md D28) -/

/-- MDS together with INV_MDS. No source gives their values (91_not_in_source.md N1), so the constant has no
body. A unit of the matrix ring carries a matrix, its inverse and the proof of the configuration law
INV_MDS · MDS = I: a configuration that breaks the law is no instance of the block (10_state.md R31). -/
opaque Config.diffusion : (Matrix (Fin 12) (Fin 12) (ZMod Config.P))ˣ

/-- The first round-constant table, of which no source gives a value (R30, D28). -/
opaque Config.ark1Table : Fin 7 → Fin 12 → ZMod Config.P

/-- The second round-constant table, of which no source gives a value (R30, D28). -/
opaque Config.ark2Table : Fin 7 → Fin 12 → ZMod Config.P

/-- The word that carries a field element: its canonical integer (92_eei_decisions.md D2). -/
def Config.canonicalWord (x : ZMod Config.P) : Word := BitVec.ofNat 64 x.val

/-- The four read-only arrays of 10_state.md R30 as the engine reads them. The functions of the machine take
a `Rom` as an argument, so that they can be evaluated under any tables. -/
structure Config.Rom where
  /-- MDS[i][j], row i, column j. -/
  mds : Fin 12 → Fin 12 → Word
  /-- INV_MDS[i][j]. -/
  invMds : Fin 12 → Fin 12 → Word
  /-- ARK1[r][i], round r, element i. -/
  ark1 : Fin 7 → Fin 12 → Word
  /-- ARK2[r][i]. -/
  ark2 : Fin 7 → Fin 12 → Word

/-- The block's own tables. -/
def Config.rom : Config.Rom where
  mds i j := Config.canonicalWord (Config.diffusion.val i j)
  invMds i j := Config.canonicalWord (Config.diffusion.inv i j)
  ark1 r i := Config.canonicalWord (Config.ark1Table r i)
  ark2 r i := Config.canonicalWord (Config.ark2Table r i)

/-- Every entry of the four tables is a canonical field element (R30). -/
def Config.Rom.Canonical (R : Config.Rom) : Prop :=
  (∀ i j, (R.mds i j).toNat < Config.P) ∧ (∀ i j, (R.invMds i j).toNat < Config.P) ∧
  (∀ r i, (R.ark1 r i).toNat < Config.P) ∧ (∀ r i, (R.ark2 r i).toNat < Config.P)

/-- The configuration law INV_MDS · MDS = I over F_p (10_state.md R31), on canonical integers. -/
def Config.Rom.Law (R : Config.Rom) : Prop :=
  ∀ i k : Fin 12, (∑ j : Fin 12, (R.invMds i j).toNat * (R.mds j k).toNat) % Config.P = if i = k then 1 else 0

/-! ### The other open parameters -/

/-- The number of the 256-byte page the platform maps the window at (00_scope.md R7 `BASE`). -/
opaque Config.basePage : Nat

/-- `BASE`, 256-byte aligned (20_memory.md R40, 93_implementation_defined.md I5). -/
def Config.base : Nat := 256 * Config.basePage

/-! ### Free values of the hidden engine state (10_state.md R32, 93_implementation_defined.md I4) -/

/-- What the round counter holds after a command that ran it; any value in 0..6. -/
opaque Config.freeRc : Nat → Fin 7

/-- What the chain temporaries t1..t7 hold after a command that ran the chain. -/
opaque Config.freeChain : Nat → Vector Word 7

/-- What the half-round vectors S1..S5 hold after a command that ran a round. -/
opaque Config.freeHalf : Nat → Vector Vec 5

end Sys2Proof
end

