-- ==== Sys2Proof/Machine/Field.lean ====
section
/-! DEFINITION. Arithmetic of the prime field F_p on canonical words (40_field_arithmetic.md): the exact integer
result, then one reduction modulo p. -/

namespace Sys2Proof.Machine

/-- The word of an integer reduced modulo p. -/
def reduce (n : Nat) : Word := BitVec.ofNat 64 (n % Config.P)

/-- `fadd(a, b) = (a + b) mod p` (40_field_arithmetic.md R81). -/
def fadd (a b : Word) : Word := reduce (a.toNat + b.toNat)

/-- `fsub(a, b) = (a − b) mod p`, taken in [0, p) (R82). The difference is taken in the integers. -/
def fsub (a b : Word) : Word := reduce (((a.toNat : Int) - (b.toNat : Int)) % (Config.P : Int)).toNat

/-- `fmul(a, b) = (a · b) mod p` (R83). -/
def fmul (a b : Word) : Word := reduce (a.toNat * b.toNat)

/-- `fsq(a) = fmul(a, a)` (R84). -/
def fsq (a : Word) : Word := fmul a a

/-- `fpow(a, k)`, a specification function that no command runs (R85). -/
def fpow (a : Word) : Nat → Word
  | 0 => 1
  | k + 1 => fmul (fpow a k) a

/-- A word is a field element: canonical, below p (R80). -/
def Canonical (a : Word) : Prop := a.toNat < Config.P

/-- Every element of a vector is canonical (10_state.md R23). -/
def CanonicalVec (v : Vec) : Prop := ∀ i : Fin 12, Canonical v[i]

end Sys2Proof.Machine
end

