-- ==== Sys2Proof/Syntax.lean ====
section
/-! DEFINITION. The commands of the block, one constructor for each row of spec/opcode_table.json
(30_encoding.md R62). The only operand is the RND field (R63): the state operand of every command is implicit. -/

namespace Sys2Proof

/-- A command (30_encoding.md R62). `r` is the 3-bit RND field as the word carries it (R61); which of its values
are round indices is `Instr.wellFormed`. -/
inductive Instr where
  /-- NOP, 45_control.md R180. -/
  | nop
  /-- SBOX, 41_sbox_engine.md R101. -/
  | sbox
  /-- INV_SBOX, 41_sbox_engine.md R106. -/
  | invSbox
  /-- MDS_MUL, 42_linear_diffusion.md R121. -/
  | mdsMul
  /-- INV_MDS_MUL, 42_linear_diffusion.md R122. -/
  | invMdsMul
  /-- ADD_ARK1 r, 43_permutation_round.md R141. -/
  | addArk1 (r : BitVec 3)
  /-- ADD_ARK2 r, 43_permutation_round.md R142. -/
  | addArk2 (r : BitVec 3)
  /-- ROUND r, 43_permutation_round.md R144. -/
  | round (r : BitVec 3)
  /-- PERMUTE, 43_permutation_round.md R146. -/
  | permute
  /-- MERGE, 44_compressor.md R171. -/
  | merge
  /-- CLEAR, 45_control.md R181. -/
  | clear
  deriving DecidableEq, Repr

end Sys2Proof
end

