-- ==== Sys2Proof/WellFormed.lean ====
section
/-! DEFINITION. Which terms of `Instr` are commands: the round index of ADD_ARK1, ADD_ARK2 and ROUND runs
"from 0 to 6 inclusive" (30_encoding.md R63). -/

namespace Sys2Proof

/-- A round operand is in range: 0..6, so every 3-bit value but 7 (30_encoding.md R63). -/
def roundInRange (r : BitVec 3) : Bool := decide (r.toNat < 7)

/-- The check of every constructor. Commands without a round operand have nothing to check. -/
def Instr.wellFormed : Instr → Bool
  | .nop => true
  | .sbox => true
  | .invSbox => true
  | .mdsMul => true
  | .invMdsMul => true
  | .addArk1 r => roundInRange r
  | .addArk2 r => roundInRange r
  | .round r => roundInRange r
  | .permute => true
  | .merge => true
  | .clear => true

end Sys2Proof
end

