-- ==== Sys2Proof/Decode.lean ====
section
/-! DEFINITION. The command word: its fields (30_encoding.md R61), the decoder in the order of the checks of
`issue` (R65), the encoder (R71), and the byte lanes a word travels in (20_memory.md R42). -/

namespace Sys2Proof

/-! ### Fields of the command word (R61) -/

/-- OPCODE, bits [7:0]. -/
def opcodeOf (v : Word) : BitVec 8 := v.extractLsb' 0 8

/-- RND, bits [10:8]. -/
def rndOf (v : Word) : BitVec 3 := v.extractLsb' 8 3

/-- RSV, bits [63:11]. -/
def rsvOf (v : Word) : BitVec 53 := v.extractLsb' 11 53

/-- Why a command word is no command (30_encoding.md R64, R63). -/
inductive Reject where
  /-- Reserved opcode, nonzero RSV, or nonzero RND on a command without a round (R64). -/
  | illegalCmd
  /-- RND = 7 on ADD_ARK1, ADD_ARK2 or ROUND (R63). -/
  | badRound
  deriving DecidableEq, Repr

/-- What an assigned opcode selects: a command without a round operand, or one with (R62). -/
inductive OpcodeRow where
  | plain (i : Instr)
  | withRound (i : BitVec 3 → Instr)

/-- The opcode map of 30_encoding.md R62; `none` is a reserved opcode. -/
def opcodeRow (op : BitVec 8) : Option OpcodeRow :=
  match op.toNat with
  | 0x00 => some (.plain .nop)
  | 0x01 => some (.plain .sbox)
  | 0x02 => some (.plain .invSbox)
  | 0x03 => some (.plain .mdsMul)
  | 0x04 => some (.plain .invMdsMul)
  | 0x05 => some (.withRound .addArk1)
  | 0x06 => some (.withRound .addArk2)
  | 0x07 => some (.withRound .round)
  | 0x08 => some (.plain .permute)
  | 0x09 => some (.plain .merge)
  | 0x0A => some (.plain .clear)
  | _ => none

/-- The decoder, with the checks in the order of 30_encoding.md R65: a reserved opcode or nonzero RSV first,
then RND = 7 on a command with a round, or RND ≠ 0 on one without. -/
def decode (v : Word) : Except Reject Instr :=
  match opcodeRow (opcodeOf v) with
  | none => .error .illegalCmd
  | some row =>
    if rsvOf v ≠ 0 then .error .illegalCmd
    else match row with
      | .withRound i => if rndOf v = 7 then .error .badRound else .ok (i (rndOf v))
      | .plain i => if rndOf v ≠ 0 then .error .illegalCmd else .ok i

/-! ### The encoder -/

/-- `OPCODE(MNEMONIC)` of 30_encoding.md R71, from the table of R62. -/
def Instr.opcode : Instr → BitVec 8
  | .nop => 0x00
  | .sbox => 0x01
  | .invSbox => 0x02
  | .mdsMul => 0x03
  | .invMdsMul => 0x04
  | .addArk1 _ => 0x05
  | .addArk2 _ => 0x06
  | .round _ => 0x07
  | .permute => 0x08
  | .merge => 0x09
  | .clear => 0x0A

/-- The RND field of a command: its round operand, 0 when it has none (R71). -/
def Instr.rnd : Instr → BitVec 3
  | .addArk1 r => r
  | .addArk2 r => r
  | .round r => r
  | .nop => 0
  | .sbox => 0
  | .invSbox => 0
  | .mdsMul => 0
  | .invMdsMul => 0
  | .permute => 0
  | .merge => 0
  | .clear => 0

/-- `enc(MNEMONIC, r) = (r << 8) | OPCODE(MNEMONIC)` (30_encoding.md R71). -/
def encode (i : Instr) : Word := (i.rnd.setWidth 64 <<< 8) ||| i.opcode.setWidth 64

/-! ### Byte lanes (20_memory.md R42) -/

/-- Byte lane k of a word: bits [8k+7:8k]. -/
def laneOf (v : Word) (k : Nat) : Byte := v.extractLsb' (8 * k) 8

/-- The eight byte lanes of a word, lane 0 (the lowest offset) first. -/
def lanesOf (v : Word) : List Byte := (List.range 8).map (laneOf v)

/-- The number that byte lanes carry, lane 0 least significant. -/
def lanesToNat : List Byte → Nat
  | [] => 0
  | b :: bs => b.toNat + 256 * lanesToNat bs

/-- The word that eight byte lanes carry. -/
def wordOfLanes (bs : List Byte) : Word := BitVec.ofNat 64 (lanesToNat bs)

/-- Why a sequence of bytes is no command. -/
inductive ByteReject where
  /-- Not exactly eight bytes: "A decoder always consumes exactly 64 bits" (30_encoding.md R60). -/
  | wrongLength
  /-- Eight bytes whose word is rejected. -/
  | word (why : Reject)
  deriving DecidableEq, Repr

/-- The decoder on the bytes of the bus, total on any bytes. -/
def decodeBytes (bs : List Byte) : Except ByteReject Instr :=
  if bs.length = 8 then
    match decode (wordOfLanes bs) with
    | .ok i => .ok i
    | .error why => .error (.word why)
  else .error .wrongLength

/-- The bytes of a table word: at least the eight of a command, the bits above `nbits` zero. -/
def tableBytes (nbits w : Nat) : List Byte :=
  (List.range (max 8 (nbits / 8))).map fun k => BitVec.ofNat 8 (w % 2 ^ nbits / 256 ^ k)

/-- The instruction the decoder reads from a word of spec/opcode_table.json. -/
def decodeTableWord (nbits w : Nat) : Option Instr :=
  match decodeBytes (tableBytes nbits w) with
  | .ok i => some i
  | .error _ => none

end Sys2Proof
end

