-- ==== Sys2Proof/Machine/State.lean ====
section
/-! DEFINITION. The state of the machine as plain data (10_state.md R20): the register file, the command and
status registers, the hidden engine state, and the environment side of the host interface (the host accesses and
completion turns still to come, the responses already given). -/

namespace Sys2Proof.Machine

/-! ### The host interface (20_memory.md R43, R51) -/

/-- The kind of a host access. -/
inductive AccessKind where
  | read
  | write
  deriving DecidableEq, Repr

/-- One host access: the tuple (kind, off, n, wdata) of 20_memory.md R43. -/
structure Access where
  kind : AccessKind
  /-- The byte offset within the 256-byte window (R40). -/
  off : BitVec 8
  /-- The width of the access in bytes. -/
  n : Nat
  /-- The data of a write; a read carries it without effect. -/
  wdata : Word
  deriving DecidableEq, Repr

/-- The response of one host access: (rdata, OKAY or ERROR) of 20_memory.md R51. -/
structure Response where
  /-- The data a read returns; a write returns none. -/
  rdata : Option Word
  /-- OKAY (true) or ERROR (false). -/
  okay : Bool
  deriving DecidableEq, Repr

/-- What happens next at the block's boundary. A list of events is one interleaving of host accesses with
completion turns (20_memory.md R47), with the reset line (70_reset_and_hazards.md R230). -/
inductive Event where
  /-- The host performs one access. -/
  | access (a : Access)
  /-- The engine takes its turn: the running command, if there is one, completes (30_encoding.md R68). -/
  | complete
  /-- The block is reset (70_reset_and_hazards.md R230). -/
  | reset
  deriving DecidableEq, Repr

/-! ### Hidden engine state (10_state.md R32) -/

/-- The engine state that no access can read and no command reads before writing it
(10_state.md R32 (b) and (c), 93_implementation_defined.md I4). -/
structure Hidden where
  /-- The round counter of PERMUTE and MERGE, 0..6. -/
  rc : Fin 7
  /-- The chain temporaries t1..t7 of 41_sbox_engine.md R103. -/
  chain : Vector Word 7
  /-- The half-round vectors S1..S5 of 43_permutation_round.md R143. -/
  half : Vector Vec 5
  deriving DecidableEq, Repr

/-! ### The state -/

/-- The state of one block instance and of its interface. -/
structure State where
  /-- The state register file S[0..11] (10_state.md R21). -/
  S : Vec
  /-- CMD: the last accepted command word (R28). -/
  cmd : Word
  /-- STATUS.BUSY (R29). -/
  busy : Bool
  /-- STATUS.DONE (R29). -/
  done : Bool
  /-- STATUS.ERR (R29). -/
  err : Bool
  /-- STATUS.ERRCODE (R29, 60_exceptions.md R201). -/
  errcode : BitVec 4
  /-- The accepted command word being executed, or none (R32 (a)). -/
  pending : Option Word
  /-- The unobservable rest of the engine (R32 (b), (c)). -/
  hidden : Hidden
  /-- The events still to come, the next one first. When it is used up the engine has every turn. -/
  agenda : List Event
  /-- The responses given so far, the oldest first. -/
  responses : List Response
  /-- The model's own counter: how many free values have been drawn (Config.freeRc and its like). -/
  freeTick : Nat
  deriving DecidableEq, Repr

/-- The hidden engine state after reset. R34 leaves it "unspecified"; zero is the model's choice. -/
def Hidden.reset : Hidden where
  rc := 0
  chain := Vector.replicate 7 0
  half := Vector.replicate 5 (Vector.replicate 12 0)

/-- The machine after reset (10_state.md R34): every register 0, STATUS 0, nothing pending. No event is
scheduled: what the host does is not the block's. -/
def State.reset : State where
  S := Vector.replicate 12 0
  cmd := 0
  busy := false
  done := false
  err := false
  errcode := 0
  pending := none
  hidden := Hidden.reset
  agenda := []
  responses := []
  freeTick := 0

/-! ### The reasons a step can stop -/

/-- Both faults are safe: the block itself never reaches them, because `issue` stores accepted words only
(30_encoding.md R65), and a stopped run proves nothing about what comes after. -/
inductive Fault where
  /-- Raised by the engine's turn when the pending word is no command. Safe: `issue` accepts no such word
  (R65), so the state is unreachable (R68: exec is total on every accepted word). -/
  | pendingNotACommand
  /-- Raised by ADD_ARK1, ADD_ARK2 and ROUND on the ill-formed operand 7. Safe: the decoder rejects that
  word with BAD_ROUND (R63), so it never becomes pending. -/
  | roundOutOfRange
  deriving DecidableEq, Repr

/-- No command of the block is refused. -/
inductive Refusal where
  /-- An instruction without a meaning, by its mnemonic; raised by an arm of `exec` only. Safe. -/
  | notModelled (mnemonic : String)
  deriving DecidableEq, Repr

end Sys2Proof.Machine
end

