-- ==== Sys2Proof/Machine/Flags.lean ====
section
/-! DEFINITION. STATUS and ID as words, and every rule that sets or clears a flag: acceptance, completion, the
error record and write-1-to-clear. Field arithmetic sets no flag (10_state.md R33). -/

namespace Sys2Proof.Machine

/-- The value ID reads, from its fields (10_state.md R27). -/
def idWord : Word :=
  BitVec.ofNat 64 (Config.stateWidth + Config.numRounds * 2 ^ 8 + Config.capacity * 2 ^ 16
    + Config.digestSize * 2 ^ 24 + Config.rate * 2 ^ 32 + Config.version * 2 ^ 40)

/-- `{56'b0, ERRCODE[3:0], 1'b0, ERR, DONE, BUSY}` (20_memory.md R44, 10_state.md R29). -/
def State.statusWord (s : State) : Word :=
  0#56 ++ s.errcode ++ 0#1 ++ BitVec.ofBool s.err ++ BitVec.ofBool s.done ++ BitVec.ofBool s.busy

/-- The error causes of 60_exceptions.md R201. -/
inductive ErrCause where
  | illegalCmd
  | badRound
  | noncanonical
  | busy
  | badAccess
  deriving DecidableEq, Repr

/-- The code of a cause (60_exceptions.md R201). -/
def ErrCause.code : ErrCause → BitVec 4
  | .illegalCmd => 1
  | .badRound => 2
  | .noncanonical => 3
  | .busy => 4
  | .badAccess => 5

/-- The cause that reports a rejected command word (30_encoding.md R65). -/
def causeOfReject : Reject → ErrCause
  | .illegalCmd => .illegalCmd
  | .badRound => .badRound

/-- The error record of `raise Err(code)`: the first code is kept while ERR = 1 (60_exceptions.md R203). -/
def State.recordError (s : State) (c : ErrCause) : State :=
  { s with err := true, errcode := if s.err then s.errcode else c.code }

/-- A write of v to STATUS: bit 1 clears DONE, bit 2 clears ERR and ERRCODE, every other bit is ignored
(20_memory.md R45). -/
def State.writeStatus (s : State) (v : Word) : State :=
  { s with
    done := s.done && !v.getLsbD 1
    err := s.err && !v.getLsbD 2
    errcode := if v.getLsbD 2 then 0 else s.errcode }

/-- The last line of `issue`: CMD <- v; DONE <- 0; BUSY <- 1; pending <- v (30_encoding.md R65). -/
def State.accept (s : State) (v : Word) : State :=
  { s with cmd := v, done := false, busy := true, pending := some v }

/-- `complete()`: S takes the command's result in one update; pending <- none; BUSY <- 0; DONE <- 1
(30_encoding.md R68). -/
def State.finish (s : State) (result : Vec) : State :=
  { s with S := result, pending := none, busy := false, done := true }

end Sys2Proof.Machine
end

