-- ==== Sys2Proof/Machine/Operands.lean ====
section
/-! DEFINITION. The operand forms: the round index of a command (30_encoding.md R63), and the register a window
offset names (20_memory.md R41) with the legality of an access to it (R43). -/

namespace Sys2Proof.Machine

/-- The round index that an RND field gives: 0..6, or none for 7 (30_encoding.md R63). -/
def roundIndex (r : BitVec 3) : Option (Fin 7) :=
  if h : r.toNat < 7 then some ⟨r.toNat, h⟩ else none

/-- The registers of the window (20_memory.md R41). -/
inductive Reg where
  | id
  | cmd
  | status
  | s (i : Fin 12)
  deriving DecidableEq, Repr

/-- `off(REG)` (30_encoding.md R70, 20_memory.md R41). -/
def Reg.off : Reg → BitVec 8
  | .id => 0x00
  | .cmd => 0x08
  | .status => 0x10
  | .s i => BitVec.ofNat 8 (0x40 + 8 * i.val)

/-- The register at a window offset; none for a reserved or misaligned offset (20_memory.md R41). -/
def regAt (off : BitVec 8) : Option Reg :=
  if off = 0x00 then some .id
  else if off = 0x08 then some .cmd
  else if off = 0x10 then some .status
  else if h : 0x40 ≤ off.toNat ∧ off.toNat ≤ 0x98 ∧ off.toNat % 8 = 0 then
    some (.s ⟨(off.toNat - 0x40) / 8, by omega⟩)
  else none

/-- `legal(kind, off, n)` as 20_memory.md R43 writes it. -/
def Access.legal (a : Access) : Bool :=
  a.n == 8 && a.off.toNat % 8 == 0 &&
  (a.off == 0x00 || a.off == 0x08 || a.off == 0x10 || (0x40 ≤ a.off.toNat && a.off.toNat ≤ 0x98)) &&
  !(a.kind == .write && a.off == 0x00)

/-- The window offset that a host address names, when it lies in the window at BASE (20_memory.md R40). -/
def windowOffset (addr : Nat) : Option (BitVec 8) :=
  if Config.base ≤ addr ∧ addr < Config.base + 256 then some (BitVec.ofNat 8 (addr - Config.base)) else none

/-- The byte at the window's offset 8·w + k is lane k of the register at 8·w (20_memory.md R42). -/
def wordOffset (off : BitVec 8) : BitVec 8 := off &&& 0xF8

end Sys2Proof.Machine
end

