-- ==== Sys2Proof/Machine/Ops.lean ====
section
/-! DEFINITION. The operations the accesses and the commands share: responses, the one rejection of an access
(the block's only exception, 60_exceptions.md R203, R206) and its counterpart, register reads and writes, the reset
event, and the free values of the hidden engine state. -/

namespace Sys2Proof.Machine

/-! ### Responses and the rejection of an access -/

/-- Answer the current access (20_memory.md R51). -/
def State.respond (s : State) (r : Response) : State := { s with responses := s.responses ++ [r] }

/-- The response of an accepted read: its data, OKAY. -/
def State.okayRead (s : State) (v : Word) : State := s.respond ⟨some v, true⟩

/-- The response of an accepted write: OKAY, no data. -/
def State.okayWrite (s : State) : State := s.respond ⟨none, true⟩

/-- The ERROR response: a rejected read returns 0 (60_exceptions.md R203). -/
def errorResponse : AccessKind → Response
  | .read => ⟨some 0, false⟩
  | .write => ⟨none, false⟩

/-- `raise Err(code)`: the block's only exception. The access gets an ERROR response, the first code is
recorded, and nothing else changes (60_exceptions.md R203, R205, R206). -/
def State.raiseErr (s : State) (k : AccessKind) (c : ErrCause) : State :=
  (s.recordError c).respond (errorResponse k)

/-- The counterpart of a trap return: the host's write of 1 to STATUS.ERR, here with DONE as the `ack`
pseudo-instruction writes it (60_exceptions.md R207, 30_encoding.md R72). -/
def State.acknowledge (s : State) : State := (s.writeStatus 0x6).okayWrite

/-! ### Register reads and writes -/

/-- The value of a register, BUSY left aside (20_memory.md R44). -/
def State.regValue (s : State) : Reg → Word
  | .id => idWord
  | .cmd => s.cmd
  | .status => s.statusWord
  | .s i => s.S[i]

/-- `S[i] <- v`: only that element changes (20_memory.md R45). -/
def State.setS (s : State) (i : Fin 12) (v : Word) : State := { s with S := s.S.set i v }

/-- The byte that a window offset addresses: its lane of the register there (20_memory.md R40, R42). A reserved
offset holds nothing. This is the window as data; what an access may read of it is `hostRead`. -/
def State.windowByte (s : State) (off : BitVec 8) : Option Byte :=
  (regAt (wordOffset off)).map fun r => laneOf (s.regValue r) (off.toNat % 8)

/-! ### Completion and the hidden engine state -/

/-- The chain temporaries hold anything after the inverse S-box chain ran (93_implementation_defined.md I4). -/
def State.useChain (s : State) : State :=
  { s with hidden := { s.hidden with chain := Config.freeChain s.freeTick }, freeTick := s.freeTick + 1 }

/-- The half-round vectors hold anything after a round ran (I4). -/
def State.useHalf (s : State) : State :=
  { s with hidden := { s.hidden with half := Config.freeHalf s.freeTick }, freeTick := s.freeTick + 1 }

/-- The round counter holds anything in 0..6 after PERMUTE or MERGE ran (I4). -/
def State.useRc (s : State) : State :=
  { s with hidden := { s.hidden with rc := Config.freeRc s.freeTick }, freeTick := s.freeTick + 1 }

/-! ### Reset -/

/-- The reset event: every piece of the block's state takes its reset value, and a running command is abandoned
(70_reset_and_hazards.md R230). The interface's own lists and the model's counter are not the block's. -/
def State.resetBlock (s : State) : State :=
  { State.reset with agenda := s.agenda, responses := s.responses, freeTick := s.freeTick }

end Sys2Proof.Machine
end

