-- ==== Sys2Proof/Machine/Access.lean ====
section
/-! DEFINITION. Host accesses to the register window (20_memory.md R43 to R46) and the issue of a command
(30_encoding.md R65). -/

namespace Sys2Proof.Machine

/-- `issue(v)`: BUSY first, then the decoder's own order of checks; an accepted word becomes pending
(30_encoding.md R65). -/
def State.issue (s : State) (v : Word) : State :=
  if s.busy then s.raiseErr .write .busy
  else match decode v with
    | .error why => s.raiseErr .write (causeOfReject why)
    | .ok _ => (s.accept v).okayWrite

/-- `HostRead(off, 8)` of a legal access, on the register it names (20_memory.md R44). -/
def State.readReg (s : State) : Reg → State
  | .id => s.okayRead idWord
  | .cmd => s.okayRead s.cmd
  | .status => s.okayRead s.statusWord
  | .s i => if s.busy then s.raiseErr .read .busy else s.okayRead s.S[i]

/-- `HostWrite(off, 8, v)` of a legal access, on the register it names (20_memory.md R45). A write to ID is no
legal access (R43 (d)). -/
def State.writeReg (s : State) (v : Word) : Reg → State
  | .id => s.raiseErr .write .badAccess
  | .cmd => s.issue v
  | .status => (s.writeStatus v).okayWrite
  | .s i =>
    if s.busy then s.raiseErr .write .busy
    else if Config.P ≤ v.toNat then s.raiseErr .write .noncanonical
    else (s.setS i v).okayWrite

/-- One host access: BAD_ACCESS unless it is legal, then the register's own rule (20_memory.md R43 to R45). -/
def State.access (s : State) (a : Access) : State :=
  if a.legal then
    match regAt a.off with
    | none => s.raiseErr a.kind .badAccess
    | some r =>
      match a.kind with
      | .read => s.readReg r
      | .write => s.writeReg a.wdata r
  else s.raiseErr a.kind .badAccess

end Sys2Proof.Machine
end

