-- ==== Sys2Proof/Machine/Diffusion.lean ====
section
/-! DEFINITION. The linear diffusion (42_linear_diffusion.md): the 12×12 matrix-vector product over F_p, and the
meanings of MDS_MUL and INV_MDS_MUL. -/

namespace Sys2Proof.Machine

/-- `matvec(M, S)`: every output from the whole input vector, as the exact integer sum and one reduction
(42_linear_diffusion.md R120). -/
def matvec (M : Fin 12 → Fin 12 → Word) (S : Vec) : Vec :=
  Vector.ofFn fun i => reduce (∑ j : Fin 12, (M i j).toNat * (S[j]).toNat)

/-- MDS_MUL (42_linear_diffusion.md R121). -/
def execMdsMul (s : State) : Host.Outcome State Fault Refusal := .next (s.finish (matvec Config.rom.mds s.S))

/-- INV_MDS_MUL (42_linear_diffusion.md R122). -/
def execInvMdsMul (s : State) : Host.Outcome State Fault Refusal := .next (s.finish (matvec Config.rom.invMds s.S))

end Sys2Proof.Machine
end

