-- ==== Sys2Proof/Machine/Sbox.lean ====
section
/-! DEFINITION. The S-box engine (41_sbox_engine.md): the forward S-box x ↦ x^7 and the inverse S-box by the fixed
addition chain, and the meanings of SBOX and INV_SBOX. -/

namespace Sys2Proof.Machine

/-- `sbox(x)`: x² and x⁴ by squaring, then x·x²·x⁴ (41_sbox_engine.md R100; 90_conflicts.md C3). -/
def sbox (x : Word) : Word :=
  let x2 := fsq x
  let x4 := fsq x2
  fmul (fmul x x2) x4

/-- `sbox_vec(S)`: each lane on its own (R101). -/
def sboxVec (S : Vec) : Vec := S.map sbox

/-- Square b n times. -/
def fsqTimes (b : Word) : Nat → Word
  | 0 => b
  | n + 1 => fsq (fsqTimes b n)

/-- `exp_acc(b, t, N)`: square b N times, then multiply by t (R104). -/
def expAcc (b t : Word) (n : Nat) : Word := fmul (fsqTimes b n) t

/-- `inv_sbox(x) = fpow(x, e)`: the architected result, a specification function (R102). -/
def invSbox (x : Word) : Word := fpow x Config.invAlpha

/-- `inv_sbox_chain(x)`: the schedule the block computes (R103). -/
def invSboxChain (x : Word) : Word :=
  let t1 := fsq x
  let t2 := fsq t1
  let t3 := expAcc t2 t2 3
  let t4 := expAcc t3 t3 6
  let t5 := expAcc t4 t4 12
  let t6 := expAcc t5 t3 6
  let t7 := expAcc t6 t6 31
  let a := fsq (fsq (fmul (fsq t7) t6))
  let b := fmul (fmul t1 t2) x
  fmul a b

/-- `inv_sbox_vec(S)`: each lane on its own (R106). -/
def invSboxVec (S : Vec) : Vec := S.map invSboxChain

/-- SBOX (41_sbox_engine.md R101). -/
def execSbox (s : State) : Host.Outcome State Fault Refusal := .next (s.finish (sboxVec s.S))

/-- INV_SBOX (41_sbox_engine.md R106). -/
def execInvSbox (s : State) : Host.Outcome State Fault Refusal := .next (s.useChain.finish (invSboxVec s.S))

end Sys2Proof.Machine
end

