-- ==== Sys2Proof/Machine/Permutation.lean ====
section
/-! DEFINITION. Round-constant addition, the round and the seven-round permutation (43_permutation_round.md), with
the inverse of a round and the two sides of the round-check relation as specification functions, and the meanings of
ADD_ARK1, ADD_ARK2, ROUND and PERMUTE. -/

namespace Sys2Proof.Machine

/-- `ark(T, r, S)`: add row r of a table, each lane on its own (43_permutation_round.md R140). -/
def arkVec (T : Fin 7 → Fin 12 → Word) (r : Fin 7) (S : Vec) : Vec :=
  Vector.ofFn fun i => fadd S[i] (T r i)

/-- `round(S, r)`: the six steps in order; step 5 uses MDS again (R143). -/
def roundVec (R : Config.Rom) (r : Fin 7) (S : Vec) : Vec :=
  let S1 := sboxVec S
  let S2 := matvec R.mds S1
  let S3 := arkVec R.ark1 r S2
  let S4 := invSboxVec S3
  let S5 := matvec R.mds S4
  arkVec R.ark2 r S5

/-- `permute(S)`: rounds 0..6 in increasing order (R145). -/
def permuteVec (R : Config.Rom) (S : Vec) : Vec :=
  (List.finRange 7).foldl (fun S rc => roundVec R rc S) S

/-! ### Specification functions of the laws (no command subtracts: R149) -/

/-- Subtract row r of a table, each lane on its own (R149, R150). -/
def unarkVec (T : Fin 7 → Fin 12 → Word) (r : Fin 7) (N : Vec) : Vec :=
  Vector.ofFn fun i => fsub N[i] (T r i)

/-- `round_inv(N, r)` (R149). -/
def roundInvVec (R : Config.Rom) (r : Fin 7) (N : Vec) : Vec :=
  let S5 := unarkVec R.ark2 r N
  let S4 := matvec R.invMds S5
  let S3 := sboxVec S4
  let S2 := unarkVec R.ark1 r S3
  let S1 := matvec R.invMds S2
  invSboxVec S1

/-- The left side of the round-check relation, from the next state (R150). -/
def checkFromNext (R : Config.Rom) (r : Fin 7) (N : Vec) : Vec :=
  sboxVec (matvec R.invMds (unarkVec R.ark2 r N))

/-- The right side of the round-check relation, from the current state (R150). -/
def checkFromCurrent (R : Config.Rom) (r : Fin 7) (C : Vec) : Vec :=
  arkVec R.ark1 r (matvec R.mds (sboxVec C))

/-! ### Commands -/

/-- The commands with a round operand run on the round index it gives; the ill-formed operand 7 has no row in the
tables and never decodes (30_encoding.md R63). -/
def withRoundIndex (r : BitVec 3) (f : Fin 7 → State) : Host.Outcome State Fault Refusal :=
  match roundIndex r with
  | some k => .next (f k)
  | none => .fault .roundOutOfRange

/-- ADD_ARK1 r (43_permutation_round.md R141). -/
def execAddArk1 (r : BitVec 3) (s : State) : Host.Outcome State Fault Refusal :=
  withRoundIndex r fun k => s.finish (arkVec Config.rom.ark1 k s.S)

/-- ADD_ARK2 r (43_permutation_round.md R142). -/
def execAddArk2 (r : BitVec 3) (s : State) : Host.Outcome State Fault Refusal :=
  withRoundIndex r fun k => s.finish (arkVec Config.rom.ark2 k s.S)

/-- ROUND r (43_permutation_round.md R144). -/
def execRound (r : BitVec 3) (s : State) : Host.Outcome State Fault Refusal :=
  withRoundIndex r fun k => s.useChain.useHalf.finish (roundVec Config.rom k s.S)

/-- PERMUTE (43_permutation_round.md R146). -/
def execPermute (s : State) : Host.Outcome State Fault Refusal :=
  .next (s.useChain.useHalf.useRc.finish (permuteVec Config.rom s.S))

end Sys2Proof.Machine
end

