-- ==== Sys2Proof/Machine/Compressor.lean ====
section
/-! DEFINITION. The two-to-one compressor (44_compressor.md) and the meaning of MERGE. -/

namespace Sys2Proof.Machine

/-- The state MERGE permutes: the capacity set to [MERGE_DOMAIN, 0, 0, 0], the rate as the host loaded it
(44_compressor.md R170). -/
def mergeInit (S : Vec) : Vec :=
  #v[Config.mergeDomain, 0, 0, 0, S[4], S[5], S[6], S[7], S[8], S[9], S[10], S[11]]

/-- `merge_state(S)` (R170). -/
def mergeVec (R : Config.Rom) (S : Vec) : Vec := permuteVec R (mergeInit S)

/-- `digest(S) = [S[4], S[5], S[6], S[7]]` (R170). -/
def digest (S : Vec) : Vector Word 4 := #v[S[4], S[5], S[6], S[7]]

/-- MERGE (44_compressor.md R171). -/
def execMerge (s : State) : Host.Outcome State Fault Refusal :=
  .next (s.useChain.useHalf.useRc.finish (mergeVec Config.rom s.S))

end Sys2Proof.Machine
end

