-- ==== Sys2Proof/Machine/Control.lean ====
section
/-! DEFINITION. The meanings of the control commands NOP and CLEAR (45_control.md). -/

namespace Sys2Proof.Machine

/-- NOP: S keeps its value, and the command completes like any other (45_control.md R180). -/
def execNop (s : State) : Host.Outcome State Fault Refusal := .next (s.finish s.S)

/-- CLEAR: every element of S becomes 0 (45_control.md R181). -/
def execClear (s : State) : Host.Outcome State Fault Refusal := .next (s.finish (Vector.replicate 12 0))

end Sys2Proof.Machine
end

