-- ==== Sys2Proof/Machine/Dispatch.lean ====
section
/-! DEFINITION. One arm for each command: the completion of that command (30_encoding.md R68). -/

namespace Sys2Proof.Machine

def exec (i : Instr) (s : State) : Host.Outcome State Fault Refusal :=
  match i with
  | .nop => Sys2Proof.Machine.execNop s
  | .sbox => Sys2Proof.Machine.execSbox s
  | .invSbox => Sys2Proof.Machine.execInvSbox s
  | .mdsMul => Sys2Proof.Machine.execMdsMul s
  | .invMdsMul => Sys2Proof.Machine.execInvMdsMul s
  | .addArk1 r => Sys2Proof.Machine.execAddArk1 r s
  | .addArk2 r => Sys2Proof.Machine.execAddArk2 r s
  | .round r => Sys2Proof.Machine.execRound r s
  | .permute => Sys2Proof.Machine.execPermute s
  | .merge => Sys2Proof.Machine.execMerge s
  | .clear => Sys2Proof.Machine.execClear s

end Sys2Proof.Machine
end

