-- ==== Sys2Proof/Machine/Engine.lean ====
section
/-! DEFINITION. The two agents' turns: the engine's completion step (30_encoding.md R68) and one event of the
agenda (20_memory.md R47). -/

namespace Sys2Proof.Machine

/-- The engine's turn. Its step is enabled exactly when a command is pending (30_encoding.md R68); an idle block
keeps all its state (60_exceptions.md R215). -/
def engineTurn (s : State) : Host.Outcome State Fault Refusal :=
  match s.pending with
  | none => .next s
  | some v =>
    match decode v with
    | .ok i => exec i s
    | .error _ => .fault .pendingNotACommand

/-- One event. -/
def takeEvent (e : Event) (s : State) : Host.Outcome State Fault Refusal :=
  match e with
  | .access a => .next (s.access a)
  | .complete => engineTurn s
  | .reset => .next s.resetBlock

/-- An accepted command word with the engine's turn next. -/
def State.withCommand (s : State) (v : Word) : State :=
  { s.accept v with agenda := .complete :: s.agenda }

end Sys2Proof.Machine
end

