-- ==== Sys2Proof/Machine/Step.lean ====
section
/-! DEFINITION. One step of the machine: the next event of the agenda, or the engine's turn when the agenda is used
up (20_memory.md R47; weak fairness, 70_reset_and_hazards.md R236). -/

namespace Sys2Proof.Machine

/-- One step: a host access, a completion turn or a reset, each atomic (20_memory.md R46, R47). -/
def step (s : State) : Host.Outcome State Fault Refusal :=
  match s.agenda with
  | [] => engineTurn s
  | e :: rest => takeEvent e { s with agenda := rest }

/-- s with the command word of a table row accepted and the engine's turn next, so that the next step runs it. The
block has no fetch and no program memory (10_state.md R25): a command runs once it is pending. -/
def State.withFetchWord (s : State) (nbits w : Nat) : State :=
  s.withCommand (BitVec.ofNat 64 (w % 2 ^ nbits))

end Sys2Proof.Machine
end

