-- ==== Sys2Proof/Machine/Cost.lean ====
section
/-! DEFINITION. The commands' functions once more, with every field operation counted where it is performed
(40_field_arithmetic.md R89, 41_sbox_engine.md R105, 70_reset_and_hazards.md R237). The machine does not run these:
they say what its schedule costs. -/

namespace Sys2Proof.Machine

/-- A value with the field operations spent on it: squarings, other multiplications, additions. -/
structure Counted (α : Type) where
  val : α
  sqs : Nat
  muls : Nat
  adds : Nat
  deriving DecidableEq, Repr

namespace Counted

/-- A value that costs nothing. -/
def pure {α : Type} (a : α) : Counted α := ⟨a, 0, 0, 0⟩

/-- First x, then what is computed from its value. -/
def bind {α β : Type} (x : Counted α) (f : α → Counted β) : Counted β :=
  let y := f x.val
  ⟨y.val, x.sqs + y.sqs, x.muls + y.muls, x.adds + y.adds⟩

/-- "each fmul and each fsq as one" field multiplication (R89). -/
def fieldMuls {α : Type} (x : Counted α) : Nat := x.sqs + x.muls

/-- Twelve lanes, each counted. -/
def lanes (v : Vector (Counted Word) 12) : Counted Vec where
  val := v.map Counted.val
  sqs := (v.toList.map Counted.sqs).sum
  muls := (v.toList.map Counted.muls).sum
  adds := (v.toList.map Counted.adds).sum

/-- One squaring. -/
def sq (x : Word) : Counted Word := ⟨fsq x, 1, 0, 0⟩

/-- One multiplication. -/
def mul (x y : Word) : Counted Word := ⟨fmul x y, 0, 1, 0⟩

/-- One addition. -/
def add (x y : Word) : Counted Word := ⟨fadd x y, 0, 0, 1⟩

/-- The forward S-box of one element (41_sbox_engine.md R100). -/
def sbox (x : Word) : Counted Word :=
  (sq x).bind fun x2 => (sq x2).bind fun x4 => (mul x x2).bind fun y => mul y x4

/-- n squarings in a row. -/
def sqTimes (b : Word) : Nat → Counted Word
  | 0 => pure b
  | n + 1 => (sqTimes b n).bind sq

/-- `exp_acc` (R104). -/
def expAcc (b t : Word) (n : Nat) : Counted Word := (sqTimes b n).bind fun r => mul r t

/-- The inverse S-box chain of one element (R103). -/
def invSboxChain (x : Word) : Counted Word :=
  (sq x).bind fun t1 =>
  (sq t1).bind fun t2 =>
  (expAcc t2 t2 3).bind fun t3 =>
  (expAcc t3 t3 6).bind fun t4 =>
  (expAcc t4 t4 12).bind fun t5 =>
  (expAcc t5 t3 6).bind fun t6 =>
  (expAcc t6 t6 31).bind fun t7 =>
  (sq t7).bind fun u =>
  (mul u t6).bind fun v =>
  (sq v).bind fun w =>
  (sq w).bind fun a =>
  (mul t1 t2).bind fun c =>
  (mul c x).bind fun b =>
  mul a b

/-- One row of the matrix-vector product: twelve products and eleven additions (42_linear_diffusion.md R120). -/
def row (m : Fin 12 → Word) (S : Vec) : Counted Word :=
  (List.finRange 11).foldl
    (fun acc j => acc.bind fun y => (mul (m j.succ) S[j.succ]).bind fun z => add y z)
    (mul (m 0) S[(0 : Fin 12)])

def sboxVec (S : Vec) : Counted Vec := lanes (S.map sbox)

def invSboxVec (S : Vec) : Counted Vec := lanes (S.map invSboxChain)

def matvec (M : Fin 12 → Fin 12 → Word) (S : Vec) : Counted Vec := lanes (Vector.ofFn fun i => row (M i) S)

def arkVec (T : Fin 7 → Fin 12 → Word) (r : Fin 7) (S : Vec) : Counted Vec :=
  lanes (Vector.ofFn fun i => add S[i] (T r i))

/-- The six steps of a round (43_permutation_round.md R143). -/
def roundVec (R : Config.Rom) (r : Fin 7) (S : Vec) : Counted Vec :=
  (sboxVec S).bind fun S1 =>
  (matvec R.mds S1).bind fun S2 =>
  (arkVec R.ark1 r S2).bind fun S3 =>
  (invSboxVec S3).bind fun S4 =>
  (matvec R.mds S4).bind fun S5 =>
  arkVec R.ark2 r S5

/-- The seven rounds (R145). -/
def permuteVec (R : Config.Rom) (S : Vec) : Counted Vec :=
  (List.finRange 7).foldl (fun acc rc => acc.bind fun S => roundVec R rc S) (pure S)

/-- MERGE costs what PERMUTE costs (44_compressor.md R170). -/
def mergeVec (R : Config.Rom) (S : Vec) : Counted Vec := permuteVec R (mergeInit S)

end Counted

end Sys2Proof.Machine
end

