-- ==== Sys2Proof/Machine/Script.lean ====
section
/-! DEFINITION. The host-script forms (30_encoding.md R70 to R74) as lists of events: the accesses they expand to,
and for `wait` the completion turn that ends its loop. -/

namespace Sys2Proof.Machine

/-! ### Register aliases (10_state.md R21, 30_encoding.md R70) -/

/-- CAP0..CAP3 = S0..S3. -/
def Reg.cap (i : Fin 4) : Reg := .s ⟨i.val, by omega⟩

/-- RATE0..RATE7 = S4..S11. -/
def Reg.rate (i : Fin 8) : Reg := .s ⟨4 + i.val, by omega⟩

/-- DIG0..DIG3 = S4..S7. -/
def Reg.dig (i : Fin 4) : Reg := .s ⟨4 + i.val, by omega⟩

/-! ### Accesses -/

/-- `wr REG, V` = HostWrite(off(REG), 8, V) (R70). -/
def wr (r : Reg) (v : Word) : Event := .access ⟨.write, r.off, 8, v⟩

/-- `rd REG` = HostRead(off(REG), 8) (R70). -/
def rd (r : Reg) : Event := .access ⟨.read, r.off, 8, 0⟩

/-- An access at a host address rather than a window offset; none when it lies outside the window, which is the
platform's (20_memory.md R40, R41). -/
def busAccess (k : AccessKind) (addr n : Nat) (wdata : Word) : Option Event :=
  (windowOffset addr).map fun off => .access ⟨k, off, n, wdata⟩

/-! ### Pseudo-instructions (R72, R73) -/

/-- `cmd MNEMONIC [r]` = `wr CMD, enc(MNEMONIC, r)`. -/
def cmd (i : Instr) : List Event := [wr .cmd (encode i)]

/-- `wait`, unrolled: `polls` reads of STATUS that see BUSY = 1, then the completion, then the read that sees
BUSY = 0 and ends the loop. Every run of the loop is one of these: `polls` is how often the host polled before the
engine's turn came. -/
def wait (polls : Nat) : List Event := List.replicate polls (rd .status) ++ [.complete, rd .status]

/-- `ack` = `wr STATUS, 0x6`. -/
def ack : List Event := [wr .status 0x6]

/-- `ld Sa..Sb, [va, ..., vb]`: one write per element, in increasing order from Sa. Elements beyond S11 do not
exist and are written nowhere. -/
def ld (a : Nat) : List Word → List Event
  | [] => []
  | v :: vs => (if h : a < 12 then [wr (.s ⟨a, h⟩) v] else []) ++ ld (a + 1) vs

/-- `ldst [v0, ..., v11]` = `ld S0..S11, [v0, ..., v11]`. -/
def ldst (v : Vec) : List Event := ld 0 v.toList

/-! ### Macros (R74); `polls` is the number of busy polls of each `wait`, in order -/

/-- One command run to completion. -/
def runCmd (i : Instr) (polls : Nat) : List Event := cmd i ++ wait polls

/-- `HALF1 r`. -/
def half1 (r : BitVec 3) (polls : Fin 3 → Nat) : List Event :=
  runCmd .sbox (polls 0) ++ runCmd .mdsMul (polls 1) ++ runCmd (.addArk1 r) (polls 2)

/-- `HALF2 r`. -/
def half2 (r : BitVec 3) (polls : Fin 3 → Nat) : List Event :=
  runCmd .invSbox (polls 0) ++ runCmd .mdsMul (polls 1) ++ runCmd (.addArk2 r) (polls 2)

/-- `HASH2 A, B` (R74; 44_compressor.md R172). -/
def hash2 (A B : Vector Word 4) (polls : Nat) : List Event :=
  ld 4 A.toList ++ ld 8 B.toList ++ runCmd .merge polls ++ [rd (.s 4), rd (.s 5), rd (.s 6), rd (.s 7)]

end Sys2Proof.Machine
end

