-- ==== Sys2Proof/Safety.lean ====
section
/-! DEFINITION. What the claims say of a state: the invariant of every state a run reaches, what a completed
command leaves, and what nothing the host can do observes. -/

namespace Sys2Proof.Machine

/-- The invariant of the block (10_state.md R23, R28, R29, R32; 60_exceptions.md R201). -/
structure State.Inv (s : State) : Prop where
  /-- Every S[i] is below p (R23). -/
  canonical : CanonicalVec s.S
  /-- CMD holds an accepted command word (R28; after reset 0, the word of NOP). -/
  cmdAccepted : ∃ i, decode s.cmd = .ok i
  /-- The running command is the one CMD shows (30_encoding.md R65). -/
  pendingIsCmd : ∀ v, s.pending = some v → v = s.cmd
  /-- "pending ≠ none exactly when BUSY = 1" (R32). -/
  busyIffPending : s.busy = s.pending.isSome
  /-- "BUSY and DONE are never both 1" (R29). -/
  notBusyAndDone : ¬ (s.busy = true ∧ s.done = true)
  /-- ERR = 0 exactly when ERRCODE is 0 NONE (60_exceptions.md R201, R203). -/
  errRecord : s.err = false ↔ s.errcode = 0
  /-- Codes 6..15 are never produced (R201). -/
  errcodeAssigned : s.errcode.toNat ≤ 5

/-- The frame of every command's completion: the handshake of 30_encoding.md R68 (BUSY and pending fall, DONE
rises), and everything but S and the hidden engine state as it was. -/
structure CompletedFrom (s t : State) : Prop where
  busy : t.busy = false
  done : t.done = true
  pending : t.pending = none
  cmd : t.cmd = s.cmd
  err : t.err = s.err
  errcode : t.errcode = s.errcode
  agenda : t.agenda = s.agenda
  responses : t.responses = s.responses

/-- The hidden engine state is as it was. -/
def SameHidden (s t : State) : Prop := t.hidden = s.hidden ∧ t.freeTick = s.freeTick

/-- s and t agree on everything but the hidden engine state and the model's counter of free values: no host
access tells them apart (10_state.md R32). -/
structure SameButHidden (s t : State) : Prop where
  S : t.S = s.S
  cmd : t.cmd = s.cmd
  busy : t.busy = s.busy
  done : t.done = s.done
  err : t.err = s.err
  errcode : t.errcode = s.errcode
  pending : t.pending = s.pending
  agenda : t.agenda = s.agenda
  responses : t.responses = s.responses

/-- The next event is the engine's turn: the agenda says so, or it is used up. -/
def EngineTurnNext (s : State) : Prop := s.agenda = [] ∨ ∃ rest, s.agenda = .complete :: rest

/-- s with its next event taken off the agenda. -/
def State.popEvent (s : State) : State := { s with agenda := s.agenda.tail }

/-! ### Which errors apply to an access, on the integers of the access (60_exceptions.md R201, R204) -/

/-- The access names one of S[0..11] by its offset (20_memory.md R41). -/
def Access.ToElement (a : Access) : Prop := 0x40 ≤ a.off.toNat ∧ a.off.toNat ≤ 0x98

/-- The access writes CMD. -/
def Access.ToCommand (a : Access) : Prop := a.kind = .write ∧ a.off.toNat = 0x08

/-- A command word is illegal (30_encoding.md R64), on its OPCODE, RND and RSV as integers. -/
def IllegalWord (v : Nat) : Prop :=
  0x0B ≤ v % 256 ∨ v / 2048 ≠ 0 ∨ (¬ (0x05 ≤ v % 256 ∧ v % 256 ≤ 0x07) ∧ v / 256 % 8 ≠ 0)

/-- A command with a round operand carries RND = 7 (30_encoding.md R63). -/
def BadRoundWord (v : Nat) : Prop := 0x05 ≤ v % 256 ∧ v % 256 ≤ 0x07 ∧ v / 256 % 8 = 7

/-- The cause applies to this access in this state (60_exceptions.md R201). -/
def ErrCause.Applies (c : ErrCause) (s : State) (a : Access) : Prop :=
  match c with
  | .badAccess => ¬ (a.n = 8 ∧ a.off.toNat % 8 = 0 ∧
      (a.off.toNat = 0x00 ∨ a.off.toNat = 0x08 ∨ a.off.toNat = 0x10 ∨ a.ToElement) ∧
      ¬ (a.kind = .write ∧ a.off.toNat = 0x00))
  | .busy => s.busy = true ∧ (a.ToElement ∨ a.ToCommand)
  | .illegalCmd => a.ToCommand ∧ IllegalWord a.wdata.toNat
  | .badRound => a.ToCommand ∧ BadRoundWord a.wdata.toNat
  | .noncanonical => a.kind = .write ∧ a.ToElement ∧ Config.P ≤ a.wdata.toNat

/-- The place of a cause in the priority of 60_exceptions.md R204. -/
def ErrCause.rank : ErrCause → Nat
  | .badAccess => 1
  | .busy => 2
  | .illegalCmd => 3
  | .badRound => 4
  | .noncanonical => 5

/-! ### The permutation on integers: the claims' own reading of 43_permutation_round.md R143, with x^7 and x^e as
powers and every step reduced modulo p, apart from the functions the machine runs -/

namespace Spec

/-- The integers of a vector's elements. -/
def nats (v : Vec) : Fin 12 → Nat := fun i => (v[i]).toNat

/-- Steps 1 to 3 of a round. -/
def firstHalf (R : Config.Rom) (r : Fin 7) (x : Fin 12 → Nat) : Fin 12 → Nat := fun i =>
  (∑ j : Fin 12, (R.mds i j).toNat * x j ^ Config.alpha + (R.ark1 r i).toNat) % Config.P

/-- Steps 4 to 6 of a round. -/
def secondHalf (R : Config.Rom) (r : Fin 7) (x : Fin 12 → Nat) : Fin 12 → Nat := fun i =>
  (∑ j : Fin 12, (R.mds i j).toNat * x j ^ Config.invAlpha + (R.ark2 r i).toNat) % Config.P

/-- A round. -/
def round (R : Config.Rom) (r : Fin 7) (x : Fin 12 → Nat) : Fin 12 → Nat := secondHalf R r (firstHalf R r x)

/-- The seven rounds, index 0 first. -/
def permute (R : Config.Rom) (x : Fin 12 → Nat) : Fin 12 → Nat :=
  round R 6 (round R 5 (round R 4 (round R 3 (round R 2 (round R 1 (round R 0 x))))))

/-- The state MERGE permutes (44_compressor.md R170). -/
def mergeInit (x : Fin 12 → Nat) : Fin 12 → Nat := fun i => if i = 0 then 1 else if i.val < 4 then 0 else x i

end Spec

end Sys2Proof.Machine
end

