-- ==== Sys2Proof/Certificates/Slice0/Obligations.lean ====
section
/-! DEFINITION. The statements for the provers, in the order of the spec's files. -/

open Sys2Proof Sys2Proof.Machine

/-! ### Field arithmetic (40_field_arithmetic.md) -/

/-- R81: fadd is the exact sum reduced modulo p, with the rule's corner cases and example. -/
def Obligations.FieldAdditionIsExact : Prop :=
  (∀ a b : Word, (fadd a b).toNat = (a.toNat + b.toNat) % Config.P) ∧
  (∀ a : Word, Canonical a → fadd a 0 = a) ∧
  fadd 0xFFFF_FFFF_0000_0000 1 = 0 ∧
  fadd 0xFFFF_FFFF_0000_0000 0xFFFF_FFFF_0000_0000 = 0xFFFF_FFFE_FFFF_FFFF ∧
  fadd 18446744069414584320 36 = 35

/-- R82: fsub is the integer difference reduced into [0, p), and adding back undoes it. -/
def Obligations.FieldSubtractionIsExact : Prop :=
  (∀ a b : Word, ((fsub a b).toNat : Int) = ((a.toNat : Int) - (b.toNat : Int)) % (Config.P : Int)) ∧
  (∀ a b : Word, Canonical a → fadd (fsub a b) b = a) ∧
  fsub 0 1 = 0xFFFF_FFFF_0000_0000 ∧ fsub 3 5 = 18446744069414584319

/-- R83, R84: fmul is the exact product reduced modulo p and fsq(a) is fmul(a, a), with the rules' corner cases and
examples. -/
def Obligations.FieldMultiplicationIsExact : Prop :=
  (∀ a b : Word, (fmul a b).toNat = a.toNat * b.toNat % Config.P) ∧
  (∀ a : Word, fmul a 0 = 0) ∧ (∀ a : Word, Canonical a → fmul a 1 = a) ∧
  fmul 0xFFFF_FFFF_0000_0000 0xFFFF_FFFF_0000_0000 = 1 ∧
  fmul 0x1_0000_0000 0x1_0000_0000 = 4294967295 ∧
  fmul 0x8000_0000_0000_0000 2 = 4294967295 ∧ fmul 3 5 = 15 ∧
  (∀ a : Word, fsq a = fmul a a) ∧ fsq 0x1_0000_0000 = 4294967295

/-- R87: the canonical words with fadd and fmul are a field; its arithmetic facts (a), (b) and (c); x ↦ x^7 is a
bijection of the canonical words, and x^(7e) = x. -/
def Obligations.CanonicalWordsAreAField : Prop :=
  (∀ a b c : Word, Canonical a → Canonical b → Canonical c →
    fadd a b = fadd b a ∧ fadd (fadd a b) c = fadd a (fadd b c) ∧
    fmul a b = fmul b a ∧ fmul (fmul a b) c = fmul a (fmul b c) ∧
    fmul a (fadd b c) = fadd (fmul a b) (fmul a c)) ∧
  (∀ a : Word, Canonical a → a ≠ 0 → ∃ b, Canonical b ∧ fmul a b = 1) ∧
  (Config.P - 1 = 2 ^ 32 * 3 * 5 * 17 * 257 * 65537 ∧ Nat.gcd 7 (Config.P - 1) = 1) ∧
  (2 ^ 64 % Config.P = 2 ^ 32 - 1 ∧ 2 ^ 96 % Config.P = Config.P - 1 ∧ 2 ^ 192 % Config.P = 1) ∧
  7 * Config.invAlpha = 4 * (Config.P - 1) + 1 ∧
  (∀ y : Word, Canonical y → ∃! x : Word, Canonical x ∧ fpow x 7 = y) ∧
  (∀ x : Word, Canonical x → fpow x (7 * Config.invAlpha) = x)

/-! ### The S-box engine (41_sbox_engine.md) -/

/-- R100: the forward S-box is the seventh power, by two squarings and two multiplications, in whatever order its
products are taken. (The count is taken on the model's own counted version, `Counted.sbox`, which the machine does not
run: the model's choice, notes/assumptions/16.md.) -/
def Obligations.ForwardSboxIsSeventhPower : Prop :=
  ∀ x : Word, (sbox x).toNat = x.toNat ^ 7 % Config.P ∧ sbox x = fpow x 7 ∧
    sbox x = fmul (fmul x (fsq x)) (fsq (fsq x)) ∧ sbox x = fmul x (fmul (fsq x) (fsq (fsq x))) ∧
    sbox x = fmul (fmul x (fsq (fsq x))) (fsq x) ∧ Counted.sbox x = ⟨sbox x, 2, 2, 0⟩

/-- R104: exp_acc(b, t, N) is b^(2^N) · t, at the cost of N + 1 multiplications. (The cost is that of the
model's own counted version, `Counted.expAcc`, which the machine does not run: the model's choice,
notes/assumptions/16.md.) -/
def Obligations.ExpAccSquaresThenMultiplies : Prop :=
  ∀ (b t : Word) (n : Nat), (expAcc b t n).toNat = b.toNat ^ 2 ^ n * t.toNat % Config.P ∧
    (Counted.expAcc b t n).val = expAcc b t n ∧ (Counted.expAcc b t n).fieldMuls = n + 1

/-- R102, R103: the addition chain computes x^e, and each of its temporaries is the power of x that the rule's own
schedule names. -/
def Obligations.InverseSboxChainIsPowerE : Prop :=
  ∀ x : Word,
    let t1 := fsq x
    let t2 := fsq t1
    let t3 := expAcc t2 t2 3
    let t4 := expAcc t3 t3 6
    let t5 := expAcc t4 t4 12
    let t6 := expAcc t5 t3 6
    let t7 := expAcc t6 t6 31
    let a := fsq (fsq (fmul (fsq t7) t6))
    let b := fmul (fmul t1 t2) x
    t1 = fpow x 2 ∧ t2 = fpow x 4 ∧ t3 = fpow x 36 ∧ t4 = fpow x 2340 ∧ t5 = fpow x 9586980 ∧
    t6 = fpow x 613566756 ∧ t7 = fpow x 1317624576079972644 ∧ a = fpow x 10540996611094048176 ∧ b = fpow x 7 ∧
    invSboxChain x = fmul a b ∧ invSboxChain x = fpow x 10540996611094048183 ∧
    (invSboxChain x).toNat = x.toNat ^ 10540996611094048183 % Config.P

/-- R105, R237: in the model's own rendering of the schedule, the counted functions `Counted.*`, the chain costs 63
squarings and 9 multiplications, 864 for a whole state, and every command's function costs what the table of R237 says.
The machine does not run the counted functions, and what ties them to it is that each computes the value the machine's
own function computes: the model's choice, notes/assumptions/16.md. -/
def Obligations.OperationCountsOfCommands : Prop :=
  (∀ x : Word, Counted.invSboxChain x = ⟨invSboxChain x, 63, 9, 0⟩) ∧
  (∀ S : Vec, (Counted.sboxVec S).val = sboxVec S ∧ (Counted.sboxVec S).fieldMuls = 48 ∧
    (Counted.sboxVec S).adds = 0) ∧
  (∀ S : Vec, (Counted.invSboxVec S).val = invSboxVec S ∧ (Counted.invSboxVec S).fieldMuls = 864 ∧
    (Counted.invSboxVec S).adds = 0) ∧
  (∀ (M : Fin 12 → Fin 12 → Word) (S : Vec), (Counted.matvec M S).val = matvec M S ∧
    (Counted.matvec M S).fieldMuls = 144 ∧ (Counted.matvec M S).adds = 132) ∧
  (∀ (T : Fin 7 → Fin 12 → Word) (r : Fin 7) (S : Vec), (Counted.arkVec T r S).val = arkVec T r S ∧
    (Counted.arkVec T r S).fieldMuls = 0 ∧ (Counted.arkVec T r S).adds = 12) ∧
  (∀ (R : Config.Rom) (r : Fin 7) (S : Vec), (Counted.roundVec R r S).val = roundVec R r S ∧
    (Counted.roundVec R r S).fieldMuls = 1200 ∧ (Counted.roundVec R r S).adds = 288) ∧
  (∀ (R : Config.Rom) (S : Vec), (Counted.permuteVec R S).val = permuteVec R S ∧
    (Counted.permuteVec R S).fieldMuls = 8400 ∧ (Counted.permuteVec R S).adds = 2016) ∧
  (∀ (R : Config.Rom) (S : Vec), (Counted.mergeVec R S).val = mergeVec R S ∧
    (Counted.mergeVec R S).fieldMuls = 8400 ∧ (Counted.mergeVec R S).adds = 2016)

/-- R107: the two S-boxes undo each other on every field element, and so do the commands, in either order. The
inverse S-box is the power x^e (R102), which is what the chain computes. -/
def Obligations.SboxesAreInverse : Prop :=
  (∀ x : Word, Canonical x → Machine.invSbox (sbox x) = x ∧ sbox (Machine.invSbox x) = x ∧
    invSboxChain x = Machine.invSbox x) ∧
  (∀ s : State, CanonicalVec s.S →
    (∃ t u, exec .sbox s = .next t ∧ exec .invSbox t = .next u ∧ u.S = s.S) ∧
    (∃ t u, exec .invSbox s = .next t ∧ exec .sbox t = .next u ∧ u.S = s.S))

/-- R101, SBOX completes: every element is raised to the seventh power, each lane from itself alone.
(SameHidden, that the hidden engine state is kept, is the model's choice, notes/assumptions/6.md.) -/
def Obligations.SboxCompletes : Prop :=
  ∀ s : State, ∃ t, exec .sbox s = .next t ∧
    (∀ i : Fin 12, (t.S[i]).toNat = (s.S[i]).toNat ^ 7 % Config.P) ∧ CompletedFrom s t ∧ SameHidden s t

/-- R106, INV_SBOX completes: every element is raised to the exponent e. (That the round counter and the half-round
vectors are kept is the model's choice, notes/assumptions/6.md.) -/
def Obligations.InvSboxCompletes : Prop :=
  ∀ s : State, ∃ t, exec .invSbox s = .next t ∧
    (∀ i : Fin 12, (t.S[i]).toNat = (s.S[i]).toNat ^ 10540996611094048183 % Config.P) ∧
    CompletedFrom s t ∧ t.hidden.rc = s.hidden.rc ∧ t.hidden.half = s.hidden.half

/-! ### Linear diffusion (42_linear_diffusion.md, 10_state.md R30, R31) -/

/-- R120: an output element is the exact integer sum of products with one reduction, equally the fadd-sum of the
fmul products. The model's own counted row, which the machine does not run, computes it with 12 multiplications and 11
additions: the model's choice, notes/assumptions/16.md. -/
def Obligations.MatrixVectorProduct : Prop :=
  ∀ (M : Fin 12 → Fin 12 → Word) (S : Vec) (i : Fin 12),
    ((matvec M S)[i]).toNat = (∑ j : Fin 12, (M i j).toNat * (S[j]).toNat) % Config.P ∧
    (matvec M S)[i] = (List.finRange 12).foldl (fun acc j => fadd acc (fmul (M i j) S[j])) 0 ∧
    Counted.row (M i) S = ⟨(matvec M S)[i], 0, 12, 11⟩

/-- R124: the product is linear. -/
def Obligations.DiffusionIsLinear : Prop :=
  (∀ (M : Fin 12 → Fin 12 → Word) (S T : Vec),
    matvec M (Vector.ofFn fun i => fadd S[i] T[i]) = Vector.ofFn fun i => fadd (matvec M S)[i] (matvec M T)[i]) ∧
  (∀ (M : Fin 12 → Fin 12 → Word) (c : Word) (S : Vec),
    matvec M (Vector.ofFn fun i => fmul c S[i]) = Vector.ofFn fun i => fmul c (matvec M S)[i])

/-- R30, R31: the block's tables hold canonical elements and meet the configuration law, on either side. -/
def Obligations.TablesAreCanonicalAndLawful : Prop :=
  Config.rom.Canonical ∧ Config.rom.Law ∧
  ∀ i k : Fin 12, (∑ j : Fin 12, (Config.rom.mds i j).toNat * (Config.rom.invMds j k).toNat) % Config.P =
    if i = k then 1 else 0

/-- R123: under every table that meets the law the two products undo each other, and so do the block's two commands,
in either order. -/
def Obligations.DiffusionsAreInverse : Prop :=
  (∀ (R : Config.Rom) (S : Vec), R.Law → CanonicalVec S →
    matvec R.invMds (matvec R.mds S) = S ∧ matvec R.mds (matvec R.invMds S) = S) ∧
  (∀ s : State, CanonicalVec s.S →
    (∃ t u, exec .mdsMul s = .next t ∧ exec .invMdsMul t = .next u ∧ u.S = s.S) ∧
    (∃ t u, exec .invMdsMul s = .next t ∧ exec .mdsMul t = .next u ∧ u.S = s.S))

/-- R121, MDS_MUL completes: S becomes MDS · S, every element from the whole vector before.
(SameHidden, that the hidden engine state is kept, is the model's choice, notes/assumptions/6.md.) -/
def Obligations.MdsMulCompletes : Prop :=
  ∀ s : State, ∃ t, exec .mdsMul s = .next t ∧
    (∀ i : Fin 12, (t.S[i]).toNat =
      (∑ j : Fin 12, (Config.rom.mds i j).toNat * (s.S[j]).toNat) % Config.P) ∧
    CompletedFrom s t ∧ SameHidden s t

/-- R122, INV_MDS_MUL completes: S becomes INV_MDS · S.
(SameHidden, that the hidden engine state is kept, is the model's choice, notes/assumptions/6.md.) -/
def Obligations.InvMdsMulCompletes : Prop :=
  ∀ s : State, ∃ t, exec .invMdsMul s = .next t ∧
    (∀ i : Fin 12, (t.S[i]).toNat =
      (∑ j : Fin 12, (Config.rom.invMds i j).toNat * (s.S[j]).toNat) % Config.P) ∧
    CompletedFrom s t ∧ SameHidden s t

/-! ### Round and permutation (43_permutation_round.md) -/

/-- R140, R141, R142: ADD_ARK1 r and ADD_ARK2 r complete for every round index, adding row r of their own table to
each element. (SameHidden, that the hidden engine state is kept, is the model's choice, notes/assumptions/6.md.) -/
def Obligations.AddArkCompletes : Prop :=
  ∀ (r : BitVec 3) (h : r.toNat < 7) (s : State),
    (∃ t, exec (.addArk1 r) s = .next t ∧
      (∀ i : Fin 12, (t.S[i]).toNat =
        ((s.S[i]).toNat + (Config.rom.ark1 ⟨r.toNat, h⟩ i).toNat) % Config.P) ∧
      CompletedFrom s t ∧ SameHidden s t) ∧
    (∃ t, exec (.addArk2 r) s = .next t ∧
      (∀ i : Fin 12, (t.S[i]).toNat =
        ((s.S[i]).toNat + (Config.rom.ark2 ⟨r.toNat, h⟩ i).toNat) % Config.P) ∧
      CompletedFrom s t ∧ SameHidden s t)

/-- R143, R144: ROUND r completes for every round index, with the six steps on S. (That the round counter keeps its
value is the model's choice, notes/assumptions/6.md.) -/
def Obligations.RoundCompletes : Prop :=
  ∀ (r : BitVec 3) (h : r.toNat < 7) (s : State), ∃ t, exec (.round r) s = .next t ∧
    Spec.nats t.S = Spec.round Config.rom ⟨r.toNat, h⟩ (Spec.nats s.S) ∧ CompletedFrom s t ∧
    t.hidden.rc = s.hidden.rc

/-- R145, R146: PERMUTE completes, with the rounds 0 to 6 in order on S. -/
def Obligations.PermuteCompletes : Prop :=
  ∀ s : State, ∃ t, exec .permute s = .next t ∧
    Spec.nats t.S = Spec.permute Config.rom (Spec.nats s.S) ∧ CompletedFrom s t

/-- R63, a model's own stop (notes/assumptions/5.md): the ill-formed operand 7, which no command word decodes to,
stops by name. -/
def Obligations.IllFormedRoundStops : Prop :=
  (∀ (r : BitVec 3) (s : State), ¬ r.toNat < 7 →
    (exec (.addArk1 r) s = .fault .roundOutOfRange ∧ exec (.addArk2 r) s = .fault .roundOutOfRange ∧
      exec (.round r) s = .fault .roundOutOfRange)) ∧
  ∀ (v : Word) (r : BitVec 3), ¬ r.toNat < 7 →
    decode v ≠ .ok (.addArk1 r) ∧ decode v ≠ .ok (.addArk2 r) ∧ decode v ≠ .ok (.round r)

/-- R147, R148: ROUND r leaves S as SBOX, MDS_MUL, ADD_ARK1 r, INV_SBOX, MDS_MUL, ADD_ARK2 r leave it, and PERMUTE
leaves S as ROUND 0 to ROUND 6 leave it. -/
def Obligations.RoundAndPermuteDecompose : Prop :=
  (∀ (r : BitVec 3) (s : State), r.toNat < 7 → ∃ s1 s2 s3 s4 s5 s6 t,
    exec .sbox s = .next s1 ∧ exec .mdsMul s1 = .next s2 ∧ exec (.addArk1 r) s2 = .next s3 ∧
    exec .invSbox s3 = .next s4 ∧ exec .mdsMul s4 = .next s5 ∧ exec (.addArk2 r) s5 = .next s6 ∧
    exec (.round r) s = .next t ∧ s6.S = t.S) ∧
  (∀ s : State, ∃ s1 s2 s3 s4 s5 s6 s7 t,
    exec (.round 0) s = .next s1 ∧ exec (.round 1) s1 = .next s2 ∧ exec (.round 2) s2 = .next s3 ∧
    exec (.round 3) s3 = .next s4 ∧ exec (.round 4) s4 = .next s5 ∧ exec (.round 5) s5 = .next s6 ∧
    exec (.round 6) s6 = .next s7 ∧ exec .permute s = .next t ∧ s7.S = t.S)

/-- R149: under every lawful table a round is a bijection of the canonical vectors, undone by round_inv on either
side, and the permutation is a bijection too. -/
def Obligations.RoundAndPermuteAreBijections : Prop :=
  ∀ R : Config.Rom, R.Law →
    (∀ (r : Fin 7) (S : Vec), CanonicalVec S →
      roundInvVec R r (roundVec R r S) = S ∧ roundVec R r (roundInvVec R r S) = S ∧
      CanonicalVec (roundInvVec R r S)) ∧
    (∀ N : Vec, CanonicalVec N → ∃! S : Vec, CanonicalVec S ∧ permuteVec R S = N)

/-- R150: N is the round of C exactly when the two sides of the round-check relation agree. -/
def Obligations.RoundCheckCharacterisesRound : Prop :=
  ∀ (R : Config.Rom) (r : Fin 7) (C N : Vec), R.Law → CanonicalVec C → CanonicalVec N →
    (N = roundVec R r C ↔ checkFromNext R r N = checkFromCurrent R r C)

/-! ### The compressor (44_compressor.md) -/

/-- R170, R171: MERGE completes, with the permutation of [1, 0, 0, 0, S[4], ..., S[11]]. -/
def Obligations.MergeCompletes : Prop :=
  ∀ s : State, ∃ t, exec .merge s = .next t ∧
    Spec.nats t.S = Spec.permute Config.rom (Spec.mergeInit (Spec.nats s.S)) ∧ CompletedFrom s t

/-- R173, R170: MERGE leaves S as the four capacity writes and PERMUTE leave it, and the old S[0..3] do not affect
its result. -/
def Obligations.MergeIsCapacityWritesAndPermute : Prop :=
  (∀ s : State, s.busy = false → ∃ t u,
    exec .merge s = .next t ∧
    exec .permute ((((s.access ⟨.write, 0x40, 8, 1⟩).access ⟨.write, 0x48, 8, 0⟩).access
      ⟨.write, 0x50, 8, 0⟩).access ⟨.write, 0x58, 8, 0⟩) = .next u ∧ u.S = t.S) ∧
  (∀ s s' : State, (∀ i : Fin 12, 4 ≤ i.val → s.S[i] = s'.S[i]) →
    ∃ t t', exec .merge s = .next t ∧ exec .merge s' = .next t' ∧ t.S = t'.S)

/-- R172: HASH2 of the digests A and B, from an idle block, answers every access OKAY and reads back the digest of
the merged state, however often the host polls. (A script is a list of events, `wait` unrolled by its polls: the
model's choice, notes/assumptions/3.md and 13.md.) -/
def Obligations.Hash2ReadsTheMergedDigest : Prop :=
  ∀ (s : State) (A B : Vector Word 4) (polls : Nat), s.busy = false → s.pending = none →
    (∀ i : Fin 4, Canonical A[i] ∧ Canonical B[i]) → s.agenda = hash2 A B polls →
    ∃ (t : State) (d : Vector Word 4) (mid : List Response), Sys2Proof.core.run (polls + 15) s = .next t ∧
      t.responses = s.responses ++ mid ++ [⟨some d[0], true⟩, ⟨some d[1], true⟩, ⟨some d[2], true⟩, ⟨some d[3], true⟩] ∧
      mid.length = polls + 10 ∧ (∀ r ∈ mid, r.okay = true) ∧
      ∀ i : Fin 4, (d[i]).toNat = Spec.permute Config.rom
        (fun j => if j = 0 then 1 else if j.val < 4 then 0
          else if h : j.val < 8 then (A[j.val - 4]'(by omega)).toNat else (B[j.val - 8]'(by omega)).toNat)
        ⟨4 + i.val, by omega⟩

/-! ### Control commands (45_control.md) -/

/-- R180: NOP completes and leaves S, ERR and everything else but the handshake as it was.
(SameHidden, that the hidden engine state is kept, is the model's choice, notes/assumptions/6.md.) -/
def Obligations.NopCompletes : Prop :=
  ∀ s : State, ∃ t, exec .nop s = .next t ∧ t.S = s.S ∧ CompletedFrom s t ∧ SameHidden s t

/-- R181: CLEAR completes with every element 0.
(SameHidden, that the hidden engine state is kept, is the model's choice, notes/assumptions/6.md.) -/
def Obligations.ClearCompletes : Prop :=
  ∀ s : State, ∃ t, exec .clear s = .next t ∧ (∀ i : Fin 12, t.S[i] = 0) ∧ CompletedFrom s t ∧ SameHidden s t

/-- The frame of every command, as bytes of the window: no completion changes a byte outside S[0..11] and STATUS,
and NOP changes none outside STATUS. The reserved offsets hold nothing in any state. -/
def Obligations.CommandsLeaveTheRestOfTheWindow : Prop :=
  (∀ (i : Instr) (s t : State), exec i s = .next t → ∀ off : BitVec 8,
    ((0x18 ≤ off.toNat ∨ off.toNat < 0x10) → (off.toNat < 0x40 ∨ 0xA0 ≤ off.toNat ∨ i = .nop) →
      t.windowByte off = s.windowByte off)) ∧
  ∀ (s : State) (off : BitVec 8), ((0x18 ≤ off.toNat ∧ off.toNat < 0x40) ∨ 0xA0 ≤ off.toNat) →
    s.windowByte off = none

/-! ### Encoding (30_encoding.md) -/

/-- R71, R62: the word of every command is its round operand times 256 plus the opcode of the table. -/
def Obligations.CommandWordsFollowTheOpcodeMap : Prop :=
  (encode .nop).toNat = 0x00 ∧ (encode .sbox).toNat = 0x01 ∧ (encode .invSbox).toNat = 0x02 ∧
  (encode .mdsMul).toNat = 0x03 ∧ (encode .invMdsMul).toNat = 0x04 ∧
  (∀ r, (encode (.addArk1 r)).toNat = r.toNat * 256 + 0x05) ∧
  (∀ r, (encode (.addArk2 r)).toNat = r.toNat * 256 + 0x06) ∧
  (∀ r, (encode (.round r)).toNat = r.toNat * 256 + 0x07) ∧
  (encode .permute).toNat = 0x08 ∧ (encode .merge).toNat = 0x09 ∧ (encode .clear).toNat = 0x0A ∧
  encode (.addArk1 3) = 0x0000_0000_0000_0305 ∧ encode (.round 6) = 0x0000_0000_0000_0607

/-- Decoding an encoded well-formed command gives it back, with every operand the encoding admits. -/
def Obligations.DecodeOfEncode : Prop :=
  ∀ i : Instr, i.wellFormed = true → decode (encode i) = .ok i

/-- The other direction: a word that decodes to a command is that command's encoding, and the command is well
formed. So every command has exactly one word. -/
def Obligations.EncodeOfDecode : Prop :=
  ∀ (v : Word) (i : Instr), decode v = .ok i → encode i = v ∧ i.wellFormed = true

/-- R63, R64: a word is rejected with ILLEGAL_CMD exactly on (a), (b) or (c), with BAD_ROUND exactly when it is not
illegal and carries RND = 7 on a command with a round, and selects exactly one command otherwise. -/
def Obligations.RejectedWordsAreTheReservedOnes : Prop :=
  ∀ v : Word,
    (decode v = .error .illegalCmd ↔ IllegalWord v.toNat) ∧
    (decode v = .error .badRound ↔ ¬ IllegalWord v.toNat ∧ BadRoundWord v.toNat) ∧
    ((∃! i, decode v = .ok i) ↔ ¬ IllegalWord v.toNat ∧ ¬ BadRoundWord v.toNat)

/-- A few command words of the spec's table, written out, decode to their commands (95_test_vectors.md 3.10). -/
def Obligations.WrittenOutWordsDecode : Prop :=
  decode 0x0000_0000_0000_0000 = .ok .nop ∧ decode 0x0000_0000_0000_0002 = .ok .invSbox ∧
  decode 0x0000_0000_0000_0004 = .ok .invMdsMul ∧ decode 0x0000_0000_0000_0305 = .ok (.addArk1 3) ∧
  decode 0x0000_0000_0000_0606 = .ok (.addArk2 6) ∧ decode 0x0000_0000_0000_0607 = .ok (.round 6) ∧
  decode 0x0000_0000_0000_0009 = .ok .merge ∧ decode 0x0000_0000_0000_000A = .ok .clear ∧
  decode 0x0000_0000_0000_0F07 = .error .illegalCmd ∧ decode 0x0000_0000_0000_0707 = .error .badRound

/-- R65: `issue` on the word's fields as integers: BUSY, then ILLEGAL_CMD, then BAD_ROUND, and otherwise acceptance,
whatever ERR is. -/
def Obligations.IssueChecksInOrder : Prop :=
  ∀ (s : State) (w : Word), let t := s.access ⟨.write, 0x08, 8, w⟩
    (s.busy = true → t = s.raiseErr .write .busy) ∧
    (s.busy = false → (0x0B ≤ w.toNat % 256 ∨ w.toNat / 2048 ≠ 0) → t = s.raiseErr .write .illegalCmd) ∧
    (s.busy = false → w.toNat % 256 < 0x0B → w.toNat / 2048 = 0 →
      (0x05 ≤ w.toNat % 256 ∧ w.toNat % 256 ≤ 0x07 → w.toNat / 256 % 8 = 7 → t = s.raiseErr .write .badRound) ∧
      (¬ (0x05 ≤ w.toNat % 256 ∧ w.toNat % 256 ≤ 0x07) → w.toNat / 256 % 8 ≠ 0 → t = s.raiseErr .write .illegalCmd) ∧
      ((if 0x05 ≤ w.toNat % 256 ∧ w.toNat % 256 ≤ 0x07 then w.toNat / 256 % 8 ≠ 7 else w.toNat / 256 % 8 = 0) →
        ∃ r : Response, r.okay = true ∧
          t = { s with cmd := w, done := false, busy := true, pending := some w, responses := s.responses ++ [r] }))

/-! ### The register window (10_state.md R27, R29; 20_memory.md) -/

/-- R41, R27, R40: the window's map with the value ID reads, and the host address of every offset. -/
def Obligations.WindowMapAndId : Prop :=
  regAt 0x00 = some .id ∧ regAt 0x08 = some .cmd ∧ regAt 0x10 = some .status ∧
  (∀ (off : BitVec 8) (i : Fin 12), regAt off = some (.s i) ↔ off.toNat = 0x40 + 8 * i.val) ∧
  (∀ off : BitVec 8, (0x18 ≤ off.toNat ∧ off.toNat < 0x40) ∨ 0xA0 ≤ off.toNat ∨ off.toNat % 8 ≠ 0 →
    regAt off = none) ∧
  (∀ s : State, s.regValue .id = 0x0000_0108_0404_070C) ∧
  Config.base % 256 = 0 ∧ (∀ off : BitVec 8, windowOffset (Config.base + off.toNat) = some off) ∧
  ∀ addr : Nat, (addr < Config.base ∨ Config.base + 256 ≤ addr) → windowOffset addr = none

/-- R42, R60: byte lane k of a register carries its bits [8k+7:8k], eight lanes give the word back, and the decoder
takes exactly eight bytes. -/
def Obligations.ByteLanesAreLittleEndian : Prop :=
  (∀ (s : State) (r : Reg) (k : Nat), k < 8 →
    s.windowByte (BitVec.ofNat 8 (r.off.toNat + k)) = some (BitVec.ofNat 8 ((s.regValue r).toNat / 256 ^ k))) ∧
  (∀ v : Word, wordOfLanes (lanesOf v) = v) ∧
  lanesOf 0xFFFF_FFFF_0000_0000 = [0x00, 0x00, 0x00, 0x00, 0xFF, 0xFF, 0xFF, 0xFF] ∧
  (∀ bs : List Byte, bs.length ≠ 8 → decodeBytes bs = .error .wrongLength) ∧
  (∀ (v : Word) (i : Instr), decodeBytes (lanesOf v) = .ok i ↔ decode v = .ok i)

/-- R29, R44: STATUS reads BUSY, DONE, ERR and ERRCODE at their bits and 0 elsewhere. -/
def Obligations.StatusWordFields : Prop :=
  ∀ s : State, s.statusWord.toNat = s.busy.toNat + 2 * s.done.toNat + 4 * s.err.toNat + 16 * s.errcode.toNat

/-- R44: what each legal read returns, and that nothing but the response and, on a rejected read, the error record
changes. -/
def Obligations.HostReadsReturnTheRegister : Prop :=
  ∀ (s : State) (w : Word),
    s.access ⟨.read, 0x00, 8, w⟩ = { s with responses := s.responses ++ [⟨some 0x0000_0108_0404_070C, true⟩] } ∧
    s.access ⟨.read, 0x08, 8, w⟩ = { s with responses := s.responses ++ [⟨some s.cmd, true⟩] } ∧
    s.access ⟨.read, 0x10, 8, w⟩ = { s with responses := s.responses ++ [⟨some s.statusWord, true⟩] } ∧
    ∀ i : Fin 12,
      (s.busy = false → s.access ⟨.read, BitVec.ofNat 8 (0x40 + 8 * i.val), 8, w⟩ =
        { s with responses := s.responses ++ [⟨some s.S[i], true⟩] }) ∧
      (s.busy = true → s.access ⟨.read, BitVec.ofNat 8 (0x40 + 8 * i.val), 8, w⟩ =
        { s with responses := s.responses ++ [⟨some 0, false⟩], err := true,
                 errcode := if s.err then s.errcode else 4 })

/-- R45: what a write to each register does: CMD issues the word (R65, IssueChecksInOrder says what that is), STATUS
is write-1-to-clear, and S[i] is rejected with BUSY or NONCANONICAL or stores the value to that element only. -/
def Obligations.HostWritesFollowTheRegister : Prop :=
  ∀ (s : State) (v : Word),
    s.access ⟨.write, 0x08, 8, v⟩ = s.issue v ∧
    (∃ r : Response, r.okay = true ∧ s.access ⟨.write, 0x10, 8, v⟩ =
      { s with done := if v.toNat / 2 % 2 = 1 then false else s.done
               err := if v.toNat / 4 % 2 = 1 then false else s.err
               errcode := if v.toNat / 4 % 2 = 1 then 0 else s.errcode
               responses := s.responses ++ [r] }) ∧
    ∀ i : Fin 12, let t := s.access ⟨.write, BitVec.ofNat 8 (0x40 + 8 * i.val), 8, v⟩
      (s.busy = true → t = s.raiseErr .write .busy) ∧
      (s.busy = false → Config.P ≤ v.toNat → t = s.raiseErr .write .noncanonical) ∧
      (s.busy = false → v.toNat < Config.P →
        t.S[i] = v ∧ (∀ j : Fin 12, j ≠ i → t.S[j] = s.S[j]) ∧
        ∃ r : Response, r.okay = true ∧ t = { s with S := t.S, responses := s.responses ++ [r] })

/-- The frame of an accepted element write, as bytes of the window: every byte outside that element reads as
before. -/
def Obligations.ElementWriteLeavesOtherBytes : Prop :=
  ∀ (s : State) (i : Fin 12) (v : Word), s.busy = false → v.toNat < Config.P →
    ∀ off : BitVec 8, (off.toNat < 0x40 + 8 * i.val ∨ 0x40 + 8 * i.val + 8 ≤ off.toNat) →
      (s.access ⟨.write, BitVec.ofNat 8 (0x40 + 8 * i.val), 8, v⟩).windowByte off = s.windowByte off

/-! ### Errors (60_exceptions.md) -/

/-- R204, R201: the access reports exactly the first cause that applies, in the order of the priority, recording its
number of R201's table when ERR was 0, and is answered OKAY when none applies. -/
def Obligations.FirstApplicableErrorIsReported : Prop :=
  (∀ (s : State) (a : Access) (c : ErrCause), c.Applies s a →
    (∀ c' : ErrCause, c'.rank < c.rank → ¬ c'.Applies s a) → s.access a = s.raiseErr a.kind c ∧
      (s.err = false → (s.access a).errcode.toNat =
        match c with
        | .illegalCmd => 1
        | .badRound => 2
        | .noncanonical => 3
        | .busy => 4
        | .badAccess => 5)) ∧
  (∀ (s : State) (a : Access), (∀ c : ErrCause, ¬ c.Applies s a) →
    ∃ r, (s.access a).responses = s.responses ++ [r] ∧ r.okay = true)

/-- R203, R205: a rejected access gets one ERROR response, a rejected read returning 0; the error record takes the
code only when ERR was 0, and then it is the number that R201 gives to a cause that applies; nothing else changes. -/
def Obligations.RejectionRecordsTheFirstErrorOnly : Prop :=
  ∀ (s : State) (a : Access) (r : Response), (s.access a).responses = s.responses ++ [r] → r.okay = false →
    (a.kind = .read → r.rdata = some 0) ∧ (s.access a).err = true ∧
    (s.err = true → (s.access a).errcode = s.errcode) ∧
    (s.err = false →
      (ErrCause.illegalCmd.Applies s a ∧ (s.access a).errcode = 1) ∨
      (ErrCause.badRound.Applies s a ∧ (s.access a).errcode = 2) ∨
      (ErrCause.noncanonical.Applies s a ∧ (s.access a).errcode = 3) ∨
      (ErrCause.busy.Applies s a ∧ (s.access a).errcode = 4) ∨
      (ErrCause.badAccess.Applies s a ∧ (s.access a).errcode = 5)) ∧
    s.access a = { s with err := true, errcode := (s.access a).errcode, responses := s.responses ++ [r] }

/-- R207: `ack` clears DONE, ERR and ERRCODE at any time and restores nothing else; a write of 0 clears nothing;
while ERR = 1 a valid command is still accepted. (That a write's response carries no data is the model's choice,
notes/assumptions/8.md.) -/
def Obligations.AcknowledgeClearsTheRecord : Prop :=
  (∀ s : State, s.access ⟨.write, 0x10, 8, 0x6⟩ =
    { s with done := false, err := false, errcode := 0, responses := s.responses ++ [⟨none, true⟩] }) ∧
  (∀ s : State, s.access ⟨.write, 0x10, 8, 0⟩ = { s with responses := s.responses ++ [⟨none, true⟩] }) ∧
  (∀ (s : State) (i : Instr), s.err = true → s.busy = false → i.wellFormed = true →
    let t := s.access ⟨.write, 0x08, 8, encode i⟩
    t.busy = true ∧ t.pending = some (encode i) ∧ t.err = true ∧ t.errcode = s.errcode)

/-! ### Steps, runs and reset -/

/-- When the engine's turn comes with a command pending, the step is `exec` of that command; and a placed table word
is run by the very next step. (The agenda that says whose turn it is is the model's choice,
notes/assumptions/2.md and 3.md.) -/
def Obligations.StepRunsThePendingCommand : Prop :=
  (∀ (s : State) (v : Word) (i : Instr), EngineTurnNext s → s.pending = some v → decode v = .ok i →
    step s = exec i s.popEvent) ∧
  (∀ (s : State) (w : Nat) (i : Instr), decode (BitVec.ofNat 64 w) = .ok i →
    step (s.withFetchWord 64 w) = exec i (s.accept (BitVec.ofNat 64 w)))

/-- R231, R215: with no command pending the engine's turn changes nothing: an idle block keeps all its state.
(Whose turn it is: notes/assumptions/2.md.) -/
def Obligations.IdleBlockKeepsItsState : Prop :=
  ∀ s : State, s.pending = none → EngineTurnNext s → step s = .next s.popEvent

/-- R230, R34: a reset, in any state, running command or not, gives every register its stated reset value. (The
hidden engine state's reset value is the model's choice, notes/assumptions/4.md, and is not stated here; that a reset
is an event which keeps the rest of the agenda and the responses is the model's choice, notes/assumptions/10.md.) -/
def Obligations.ResetGivesTheResetTable : Prop :=
  ∀ (s : State) (rest : List Event), s.agenda = .reset :: rest → ∃ t, step s = .next t ∧
    (∀ i : Fin 12, t.S[i] = 0) ∧ t.cmd = 0 ∧ t.statusWord = 0 ∧ t.busy = false ∧ t.done = false ∧ t.err = false ∧
    t.errcode = 0 ∧ t.pending = none ∧ t.regValue .id = 0x0000_0108_0404_070C ∧ t.agenda = rest ∧
    t.responses = s.responses

/-- The invariant holds after reset. -/
def Obligations.InvariantHoldsAtReset : Prop := State.reset.Inv

/-- R23, R29, R32: every step keeps the invariant: canonical registers, pending exactly while BUSY, never BUSY and
DONE together, an error record that is 0 exactly while ERR is 0. -/
def Obligations.EveryStepKeepsTheInvariant : Prop :=
  ∀ s t : State, s.Inv → step s = .next t → t.Inv

/-- R67, R88, R200: no reachable state stops: from every state of the invariant the step answers a next state. -/
def Obligations.StepsNeverStop : Prop :=
  ∀ s : State, s.Inv → ∃ t, step s = .next t

/-- R67, R236: a running command completes or is reset, at the latest one step after the scheduled events.
(The agenda stands for the open latency, with the engine's turn at its end for weak fairness: the model's choice,
notes/assumptions/2.md.) -/
def Obligations.AcceptedCommandsComplete : Prop :=
  ∀ s : State, s.Inv → ∃ k t, k ≤ s.agenda.length + 1 ∧ Sys2Proof.core.run k s = .next t ∧ t.busy = false

/-- R66, R68, R72: the whole handshake of every command. From an idle block, `cmd` and `wait` answer OKAY to the CMD
write, BUSY = 1 with DONE = 0 to every poll before the completion and BUSY = 0 with DONE = 1 after it, and leave S
as `exec` of the command leaves it. (`wait` unrolled by its polls, and a write's response without data, are the
model's choices: notes/assumptions/13.md and 8.md.) -/
def Obligations.CommandScriptRunsToCompletion : Prop :=
  ∀ (s : State) (i : Instr) (polls : Nat) (rest : List Event), s.busy = false → s.pending = none →
    i.wellFormed = true → s.agenda = runCmd i polls ++ rest →
    ∃ t u : State, exec i s = .next u ∧ Sys2Proof.core.run (polls + 3) s = .next t ∧
      t.S = u.S ∧ t.cmd = encode i ∧ t.busy = false ∧ t.done = true ∧ t.pending = none ∧
      t.err = s.err ∧ t.errcode = s.errcode ∧ t.agenda = rest ∧
      t.responses = s.responses ++ [⟨none, true⟩] ++
        List.replicate polls ⟨some (BitVec.ofNat 64 (1 + 4 * s.err.toNat + 16 * s.errcode.toNat)), true⟩ ++
        [⟨some (BitVec.ofNat 64 (2 + 4 * s.err.toNat + 16 * s.errcode.toNat)), true⟩]

/-- R147, R74: the macros HALF1 r and HALF2 r, run by a host from an idle block with any number of busy polls, leave
S as ROUND r leaves it, and leave the block idle. (`wait` unrolled by its polls: the model's choice,
notes/assumptions/13.md.) -/
def Obligations.HalfMacrosRunARound : Prop :=
  ∀ (s : State) (r : BitVec 3) (p q : Fin 3 → Nat) (rest : List Event), s.busy = false → s.pending = none →
    r.toNat < 7 → s.agenda = half1 r p ++ half2 r q ++ rest →
    ∃ t u : State, exec (.round r) s = .next u ∧
      Sys2Proof.core.run (p 0 + p 1 + p 2 + q 0 + q 1 + q 2 + 18) s = .next t ∧
      t.S = u.S ∧ t.busy = false ∧ t.done = true ∧ t.pending = none ∧ t.err = s.err ∧ t.errcode = s.errcode ∧
      t.agenda = rest

/-- R22: S changes only by the completion of a command other than NOP, by an accepted write to one element, or by
reset. -/
def Obligations.StateRegistersChangeOnlyByTheirRules : Prop :=
  ∀ s t : State, step s = .next t → t.S ≠ s.S →
    (EngineTurnNext s ∧ ∃ v i, s.pending = some v ∧ decode v = .ok i ∧ i ≠ .nop) ∨
    (∃ (i : Fin 12) (v : Word) (rest : List Event), s.agenda = wr (.s i) v :: rest ∧ s.busy = false ∧
      v.toNat < Config.P ∧ t.S = s.S.set i v) ∨
    (∃ rest, s.agenda = .reset :: rest ∧ ∀ i : Fin 12, t.S[i] = 0)

/-- R65, R66, R215: BUSY rises only by the acceptance of a command: a CMD write of a word that decodes. CMD changes
then, and at reset, and never else. -/
def Obligations.OnlyAcceptanceStartsACommand : Prop :=
  ∀ s t : State, step s = .next t →
    (s.busy = false → t.busy = true →
      ∃ v i rest, s.agenda = wr .cmd v :: rest ∧ decode v = .ok i ∧ t.cmd = v ∧ t.pending = some v ∧ t.done = false) ∧
    (t.cmd ≠ s.cmd →
      (∃ v i rest, s.agenda = wr .cmd v :: rest ∧ decode v = .ok i ∧ t.cmd = v ∧ s.busy = false) ∨
      ∃ rest, s.agenda = .reset :: rest)

/-- R49, R68: while a command runs, nothing the host does changes what it will compute: S, CMD and the pending word
stay as they were at acceptance, until it completes or is reset. -/
def Obligations.RunningCommandIsUndisturbed : Prop :=
  ∀ s t : State, step s = .next t → s.busy = true → t.busy = true →
    t.S = s.S ∧ t.cmd = s.cmd ∧ t.pending = s.pending ∧ (s.done = false → t.done = false)

/-- R47, R51: a step takes exactly one event, and an access gets exactly one response; completion and reset get
none. (The agenda and the response list are the model's choice, notes/assumptions/3.md; that a write's response carries
no data is too, notes/assumptions/8.md.) -/
def Obligations.OneResponseToEachAccess : Prop :=
  ∀ s t : State, step s = .next t → t.agenda = s.agenda.tail ∧
    ((∃ a rest r, s.agenda = .access a :: rest ∧ t.responses = s.responses ++ [r] ∧ (r.rdata = none ↔ a.kind = .write)) ∨
      ((∀ a rest, s.agenda ≠ .access a :: rest) ∧ t.responses = s.responses))

/-- R32: the hidden engine state is never observed: two states that differ in it alone step alike and still differ
in it alone. -/
def Obligations.HiddenStateIsNeverObserved : Prop :=
  ∀ s s' : State, SameButHidden s s' →
    (∀ t, step s = .next t → ∃ t', step s' = .next t' ∧ SameButHidden t t') ∧
    (∀ f, step s = .fault f → step s' = .fault f)
end

