-- ==== Sys2Proof/Laws/State.lean ====
section
/-! SUPPORT. One lemma for each field of State and each update of it, all true by rfl, so that no proof unfolds a
record update. -/

namespace Sys2Proof.Machine

variable (s : State)

/-! ### `State.finish` -/

@[simp] theorem State.finish_S (r : Vec) : (s.finish r).S = r := rfl
@[simp] theorem State.finish_cmd (r : Vec) : (s.finish r).cmd = s.cmd := rfl
@[simp] theorem State.finish_busy (r : Vec) : (s.finish r).busy = false := rfl
@[simp] theorem State.finish_done (r : Vec) : (s.finish r).done = true := rfl
@[simp] theorem State.finish_err (r : Vec) : (s.finish r).err = s.err := rfl
@[simp] theorem State.finish_errcode (r : Vec) : (s.finish r).errcode = s.errcode := rfl
@[simp] theorem State.finish_pending (r : Vec) : (s.finish r).pending = none := rfl
@[simp] theorem State.finish_hidden (r : Vec) : (s.finish r).hidden = s.hidden := rfl
@[simp] theorem State.finish_agenda (r : Vec) : (s.finish r).agenda = s.agenda := rfl
@[simp] theorem State.finish_responses (r : Vec) : (s.finish r).responses = s.responses := rfl
@[simp] theorem State.finish_freeTick (r : Vec) : (s.finish r).freeTick = s.freeTick := rfl

/-! ### `State.accept` -/

@[simp] theorem State.accept_S (v : Word) : (s.accept v).S = s.S := rfl
@[simp] theorem State.accept_cmd (v : Word) : (s.accept v).cmd = v := rfl
@[simp] theorem State.accept_busy (v : Word) : (s.accept v).busy = true := rfl
@[simp] theorem State.accept_done (v : Word) : (s.accept v).done = false := rfl
@[simp] theorem State.accept_err (v : Word) : (s.accept v).err = s.err := rfl
@[simp] theorem State.accept_errcode (v : Word) : (s.accept v).errcode = s.errcode := rfl
@[simp] theorem State.accept_pending (v : Word) : (s.accept v).pending = some v := rfl
@[simp] theorem State.accept_hidden (v : Word) : (s.accept v).hidden = s.hidden := rfl
@[simp] theorem State.accept_agenda (v : Word) : (s.accept v).agenda = s.agenda := rfl
@[simp] theorem State.accept_responses (v : Word) : (s.accept v).responses = s.responses := rfl
@[simp] theorem State.accept_freeTick (v : Word) : (s.accept v).freeTick = s.freeTick := rfl

/-! ### `State.writeStatus` -/

@[simp] theorem State.writeStatus_S (v : Word) : (s.writeStatus v).S = s.S := rfl
@[simp] theorem State.writeStatus_cmd (v : Word) : (s.writeStatus v).cmd = s.cmd := rfl
@[simp] theorem State.writeStatus_busy (v : Word) : (s.writeStatus v).busy = s.busy := rfl
@[simp] theorem State.writeStatus_done (v : Word) : (s.writeStatus v).done = (s.done && !v.getLsbD 1) := rfl
@[simp] theorem State.writeStatus_err (v : Word) : (s.writeStatus v).err = (s.err && !v.getLsbD 2) := rfl
@[simp] theorem State.writeStatus_errcode (v : Word) : (s.writeStatus v).errcode = if v.getLsbD 2 then 0 else s.errcode := rfl
@[simp] theorem State.writeStatus_pending (v : Word) : (s.writeStatus v).pending = s.pending := rfl
@[simp] theorem State.writeStatus_hidden (v : Word) : (s.writeStatus v).hidden = s.hidden := rfl
@[simp] theorem State.writeStatus_agenda (v : Word) : (s.writeStatus v).agenda = s.agenda := rfl
@[simp] theorem State.writeStatus_responses (v : Word) : (s.writeStatus v).responses = s.responses := rfl
@[simp] theorem State.writeStatus_freeTick (v : Word) : (s.writeStatus v).freeTick = s.freeTick := rfl

/-! ### `State.recordError` -/

@[simp] theorem State.recordError_S (c : ErrCause) : (s.recordError c).S = s.S := rfl
@[simp] theorem State.recordError_cmd (c : ErrCause) : (s.recordError c).cmd = s.cmd := rfl
@[simp] theorem State.recordError_busy (c : ErrCause) : (s.recordError c).busy = s.busy := rfl
@[simp] theorem State.recordError_done (c : ErrCause) : (s.recordError c).done = s.done := rfl
@[simp] theorem State.recordError_err (c : ErrCause) : (s.recordError c).err = true := rfl
@[simp] theorem State.recordError_errcode (c : ErrCause) : (s.recordError c).errcode = if s.err then s.errcode else c.code := rfl
@[simp] theorem State.recordError_pending (c : ErrCause) : (s.recordError c).pending = s.pending := rfl
@[simp] theorem State.recordError_hidden (c : ErrCause) : (s.recordError c).hidden = s.hidden := rfl
@[simp] theorem State.recordError_agenda (c : ErrCause) : (s.recordError c).agenda = s.agenda := rfl
@[simp] theorem State.recordError_responses (c : ErrCause) : (s.recordError c).responses = s.responses := rfl
@[simp] theorem State.recordError_freeTick (c : ErrCause) : (s.recordError c).freeTick = s.freeTick := rfl

/-! ### `State.respond` -/

@[simp] theorem State.respond_S (r : Response) : (s.respond r).S = s.S := rfl
@[simp] theorem State.respond_cmd (r : Response) : (s.respond r).cmd = s.cmd := rfl
@[simp] theorem State.respond_busy (r : Response) : (s.respond r).busy = s.busy := rfl
@[simp] theorem State.respond_done (r : Response) : (s.respond r).done = s.done := rfl
@[simp] theorem State.respond_err (r : Response) : (s.respond r).err = s.err := rfl
@[simp] theorem State.respond_errcode (r : Response) : (s.respond r).errcode = s.errcode := rfl
@[simp] theorem State.respond_pending (r : Response) : (s.respond r).pending = s.pending := rfl
@[simp] theorem State.respond_hidden (r : Response) : (s.respond r).hidden = s.hidden := rfl
@[simp] theorem State.respond_agenda (r : Response) : (s.respond r).agenda = s.agenda := rfl
@[simp] theorem State.respond_responses (r : Response) : (s.respond r).responses = s.responses ++ [r] := rfl
@[simp] theorem State.respond_freeTick (r : Response) : (s.respond r).freeTick = s.freeTick := rfl

/-! ### `State.okayRead` -/

@[simp] theorem State.okayRead_S (v : Word) : (s.okayRead v).S = s.S := rfl
@[simp] theorem State.okayRead_cmd (v : Word) : (s.okayRead v).cmd = s.cmd := rfl
@[simp] theorem State.okayRead_busy (v : Word) : (s.okayRead v).busy = s.busy := rfl
@[simp] theorem State.okayRead_done (v : Word) : (s.okayRead v).done = s.done := rfl
@[simp] theorem State.okayRead_err (v : Word) : (s.okayRead v).err = s.err := rfl
@[simp] theorem State.okayRead_errcode (v : Word) : (s.okayRead v).errcode = s.errcode := rfl
@[simp] theorem State.okayRead_pending (v : Word) : (s.okayRead v).pending = s.pending := rfl
@[simp] theorem State.okayRead_hidden (v : Word) : (s.okayRead v).hidden = s.hidden := rfl
@[simp] theorem State.okayRead_agenda (v : Word) : (s.okayRead v).agenda = s.agenda := rfl
@[simp] theorem State.okayRead_responses (v : Word) : (s.okayRead v).responses = s.responses ++ [⟨some v, true⟩] := rfl
@[simp] theorem State.okayRead_freeTick (v : Word) : (s.okayRead v).freeTick = s.freeTick := rfl

/-! ### `State.okayWrite` -/

@[simp] theorem State.okayWrite_S : (s.okayWrite).S = s.S := rfl
@[simp] theorem State.okayWrite_cmd : (s.okayWrite).cmd = s.cmd := rfl
@[simp] theorem State.okayWrite_busy : (s.okayWrite).busy = s.busy := rfl
@[simp] theorem State.okayWrite_done : (s.okayWrite).done = s.done := rfl
@[simp] theorem State.okayWrite_err : (s.okayWrite).err = s.err := rfl
@[simp] theorem State.okayWrite_errcode : (s.okayWrite).errcode = s.errcode := rfl
@[simp] theorem State.okayWrite_pending : (s.okayWrite).pending = s.pending := rfl
@[simp] theorem State.okayWrite_hidden : (s.okayWrite).hidden = s.hidden := rfl
@[simp] theorem State.okayWrite_agenda : (s.okayWrite).agenda = s.agenda := rfl
@[simp] theorem State.okayWrite_responses : (s.okayWrite).responses = s.responses ++ [⟨none, true⟩] := rfl
@[simp] theorem State.okayWrite_freeTick : (s.okayWrite).freeTick = s.freeTick := rfl

/-! ### `State.raiseErr` -/

@[simp] theorem State.raiseErr_S (k : AccessKind) (c : ErrCause) : (s.raiseErr k c).S = s.S := rfl
@[simp] theorem State.raiseErr_cmd (k : AccessKind) (c : ErrCause) : (s.raiseErr k c).cmd = s.cmd := rfl
@[simp] theorem State.raiseErr_busy (k : AccessKind) (c : ErrCause) : (s.raiseErr k c).busy = s.busy := rfl
@[simp] theorem State.raiseErr_done (k : AccessKind) (c : ErrCause) : (s.raiseErr k c).done = s.done := rfl
@[simp] theorem State.raiseErr_err (k : AccessKind) (c : ErrCause) : (s.raiseErr k c).err = true := rfl
@[simp] theorem State.raiseErr_errcode (k : AccessKind) (c : ErrCause) : (s.raiseErr k c).errcode = if s.err then s.errcode else c.code := rfl
@[simp] theorem State.raiseErr_pending (k : AccessKind) (c : ErrCause) : (s.raiseErr k c).pending = s.pending := rfl
@[simp] theorem State.raiseErr_hidden (k : AccessKind) (c : ErrCause) : (s.raiseErr k c).hidden = s.hidden := rfl
@[simp] theorem State.raiseErr_agenda (k : AccessKind) (c : ErrCause) : (s.raiseErr k c).agenda = s.agenda := rfl
@[simp] theorem State.raiseErr_responses (k : AccessKind) (c : ErrCause) : (s.raiseErr k c).responses = s.responses ++ [errorResponse k] := rfl
@[simp] theorem State.raiseErr_freeTick (k : AccessKind) (c : ErrCause) : (s.raiseErr k c).freeTick = s.freeTick := rfl

/-! ### `State.setS` -/

@[simp] theorem State.setS_S (i : Fin 12) (v : Word) : (s.setS i v).S = s.S.set i v := rfl
@[simp] theorem State.setS_cmd (i : Fin 12) (v : Word) : (s.setS i v).cmd = s.cmd := rfl
@[simp] theorem State.setS_busy (i : Fin 12) (v : Word) : (s.setS i v).busy = s.busy := rfl
@[simp] theorem State.setS_done (i : Fin 12) (v : Word) : (s.setS i v).done = s.done := rfl
@[simp] theorem State.setS_err (i : Fin 12) (v : Word) : (s.setS i v).err = s.err := rfl
@[simp] theorem State.setS_errcode (i : Fin 12) (v : Word) : (s.setS i v).errcode = s.errcode := rfl
@[simp] theorem State.setS_pending (i : Fin 12) (v : Word) : (s.setS i v).pending = s.pending := rfl
@[simp] theorem State.setS_hidden (i : Fin 12) (v : Word) : (s.setS i v).hidden = s.hidden := rfl
@[simp] theorem State.setS_agenda (i : Fin 12) (v : Word) : (s.setS i v).agenda = s.agenda := rfl
@[simp] theorem State.setS_responses (i : Fin 12) (v : Word) : (s.setS i v).responses = s.responses := rfl
@[simp] theorem State.setS_freeTick (i : Fin 12) (v : Word) : (s.setS i v).freeTick = s.freeTick := rfl

/-! ### `State.useChain` -/

@[simp] theorem State.useChain_S : (s.useChain).S = s.S := rfl
@[simp] theorem State.useChain_cmd : (s.useChain).cmd = s.cmd := rfl
@[simp] theorem State.useChain_busy : (s.useChain).busy = s.busy := rfl
@[simp] theorem State.useChain_done : (s.useChain).done = s.done := rfl
@[simp] theorem State.useChain_err : (s.useChain).err = s.err := rfl
@[simp] theorem State.useChain_errcode : (s.useChain).errcode = s.errcode := rfl
@[simp] theorem State.useChain_pending : (s.useChain).pending = s.pending := rfl
@[simp] theorem State.useChain_hidden : (s.useChain).hidden = { s.hidden with chain := Config.freeChain s.freeTick } := rfl
@[simp] theorem State.useChain_agenda : (s.useChain).agenda = s.agenda := rfl
@[simp] theorem State.useChain_responses : (s.useChain).responses = s.responses := rfl
@[simp] theorem State.useChain_freeTick : (s.useChain).freeTick = s.freeTick + 1 := rfl

/-! ### `State.useHalf` -/

@[simp] theorem State.useHalf_S : (s.useHalf).S = s.S := rfl
@[simp] theorem State.useHalf_cmd : (s.useHalf).cmd = s.cmd := rfl
@[simp] theorem State.useHalf_busy : (s.useHalf).busy = s.busy := rfl
@[simp] theorem State.useHalf_done : (s.useHalf).done = s.done := rfl
@[simp] theorem State.useHalf_err : (s.useHalf).err = s.err := rfl
@[simp] theorem State.useHalf_errcode : (s.useHalf).errcode = s.errcode := rfl
@[simp] theorem State.useHalf_pending : (s.useHalf).pending = s.pending := rfl
@[simp] theorem State.useHalf_hidden : (s.useHalf).hidden = { s.hidden with half := Config.freeHalf s.freeTick } := rfl
@[simp] theorem State.useHalf_agenda : (s.useHalf).agenda = s.agenda := rfl
@[simp] theorem State.useHalf_responses : (s.useHalf).responses = s.responses := rfl
@[simp] theorem State.useHalf_freeTick : (s.useHalf).freeTick = s.freeTick + 1 := rfl

/-! ### `State.useRc` -/

@[simp] theorem State.useRc_S : (s.useRc).S = s.S := rfl
@[simp] theorem State.useRc_cmd : (s.useRc).cmd = s.cmd := rfl
@[simp] theorem State.useRc_busy : (s.useRc).busy = s.busy := rfl
@[simp] theorem State.useRc_done : (s.useRc).done = s.done := rfl
@[simp] theorem State.useRc_err : (s.useRc).err = s.err := rfl
@[simp] theorem State.useRc_errcode : (s.useRc).errcode = s.errcode := rfl
@[simp] theorem State.useRc_pending : (s.useRc).pending = s.pending := rfl
@[simp] theorem State.useRc_hidden : (s.useRc).hidden = { s.hidden with rc := Config.freeRc s.freeTick } := rfl
@[simp] theorem State.useRc_agenda : (s.useRc).agenda = s.agenda := rfl
@[simp] theorem State.useRc_responses : (s.useRc).responses = s.responses := rfl
@[simp] theorem State.useRc_freeTick : (s.useRc).freeTick = s.freeTick + 1 := rfl

/-! ### `State.resetBlock` -/

@[simp] theorem State.resetBlock_S : (s.resetBlock).S = Vector.replicate 12 0 := rfl
@[simp] theorem State.resetBlock_cmd : (s.resetBlock).cmd = 0 := rfl
@[simp] theorem State.resetBlock_busy : (s.resetBlock).busy = false := rfl
@[simp] theorem State.resetBlock_done : (s.resetBlock).done = false := rfl
@[simp] theorem State.resetBlock_err : (s.resetBlock).err = false := rfl
@[simp] theorem State.resetBlock_errcode : (s.resetBlock).errcode = 0 := rfl
@[simp] theorem State.resetBlock_pending : (s.resetBlock).pending = none := rfl
@[simp] theorem State.resetBlock_hidden : (s.resetBlock).hidden = Hidden.reset := rfl
@[simp] theorem State.resetBlock_agenda : (s.resetBlock).agenda = s.agenda := rfl
@[simp] theorem State.resetBlock_responses : (s.resetBlock).responses = s.responses := rfl
@[simp] theorem State.resetBlock_freeTick : (s.resetBlock).freeTick = s.freeTick := rfl

/-! ### `State.popEvent` -/

@[simp] theorem State.popEvent_S : (s.popEvent).S = s.S := rfl
@[simp] theorem State.popEvent_cmd : (s.popEvent).cmd = s.cmd := rfl
@[simp] theorem State.popEvent_busy : (s.popEvent).busy = s.busy := rfl
@[simp] theorem State.popEvent_done : (s.popEvent).done = s.done := rfl
@[simp] theorem State.popEvent_err : (s.popEvent).err = s.err := rfl
@[simp] theorem State.popEvent_errcode : (s.popEvent).errcode = s.errcode := rfl
@[simp] theorem State.popEvent_pending : (s.popEvent).pending = s.pending := rfl
@[simp] theorem State.popEvent_hidden : (s.popEvent).hidden = s.hidden := rfl
@[simp] theorem State.popEvent_agenda : (s.popEvent).agenda = s.agenda.tail := rfl
@[simp] theorem State.popEvent_responses : (s.popEvent).responses = s.responses := rfl
@[simp] theorem State.popEvent_freeTick : (s.popEvent).freeTick = s.freeTick := rfl

/-! ### `State.withCommand` -/

@[simp] theorem State.withCommand_S (v : Word) : (s.withCommand v).S = s.S := rfl
@[simp] theorem State.withCommand_cmd (v : Word) : (s.withCommand v).cmd = v := rfl
@[simp] theorem State.withCommand_busy (v : Word) : (s.withCommand v).busy = true := rfl
@[simp] theorem State.withCommand_done (v : Word) : (s.withCommand v).done = false := rfl
@[simp] theorem State.withCommand_err (v : Word) : (s.withCommand v).err = s.err := rfl
@[simp] theorem State.withCommand_errcode (v : Word) : (s.withCommand v).errcode = s.errcode := rfl
@[simp] theorem State.withCommand_pending (v : Word) : (s.withCommand v).pending = some v := rfl
@[simp] theorem State.withCommand_hidden (v : Word) : (s.withCommand v).hidden = s.hidden := rfl
@[simp] theorem State.withCommand_agenda (v : Word) : (s.withCommand v).agenda = .complete :: s.agenda := rfl
@[simp] theorem State.withCommand_responses (v : Word) : (s.withCommand v).responses = s.responses := rfl
@[simp] theorem State.withCommand_freeTick (v : Word) : (s.withCommand v).freeTick = s.freeTick := rfl

/-! ### `State.reset` -/

@[simp] theorem State.reset_S : State.reset.S = Vector.replicate 12 0 := rfl
@[simp] theorem State.reset_cmd : State.reset.cmd = 0 := rfl
@[simp] theorem State.reset_busy : State.reset.busy = false := rfl
@[simp] theorem State.reset_done : State.reset.done = false := rfl
@[simp] theorem State.reset_err : State.reset.err = false := rfl
@[simp] theorem State.reset_errcode : State.reset.errcode = 0 := rfl
@[simp] theorem State.reset_pending : State.reset.pending = none := rfl
@[simp] theorem State.reset_hidden : State.reset.hidden = Hidden.reset := rfl
@[simp] theorem State.reset_agenda : State.reset.agenda = [] := rfl
@[simp] theorem State.reset_responses : State.reset.responses = [] := rfl
@[simp] theorem State.reset_freeTick : State.reset.freeTick = 0 := rfl

end Sys2Proof.Machine
end

