-- ==== Sys2Proof/Laws/Decode.lean ====
section
/-! SUPPORT. The command word's fields as arithmetic on its integer, and what decoding can answer. -/

namespace Sys2Proof

theorem opcodeOf_toNat (v : Word) : (opcodeOf v).toNat = v.toNat % 256 := by
  simp [opcodeOf, BitVec.extractLsb'_toNat]

theorem rndOf_toNat (v : Word) : (rndOf v).toNat = v.toNat / 256 % 8 := by
  simp [rndOf, BitVec.extractLsb'_toNat, Nat.shiftRight_eq_div_pow]

theorem rsvOf_toNat (v : Word) : (rsvOf v).toNat = v.toNat / 2048 := by
  have h := v.isLt
  simp only [rsvOf, BitVec.extractLsb'_toNat, Nat.shiftRight_eq_div_pow]
  omega

/-- A word is its three fields (30_encoding.md R61). -/
theorem word_of_fields (v : Word) :
    v.toNat = (rsvOf v).toNat * 2048 + (rndOf v).toNat * 256 + (opcodeOf v).toNat := by
  rw [opcodeOf_toNat, rndOf_toNat, rsvOf_toNat]
  omega

/-- Two words with the same three fields are the same word. -/
theorem word_eq_of_fields {v w : Word} (ho : opcodeOf v = opcodeOf w) (hr : rndOf v = rndOf w)
    (hs : rsvOf v = rsvOf w) : v = w := by
  apply BitVec.eq_of_toNat_eq
  rw [word_of_fields v, word_of_fields w, ho, hr, hs]

/-- The word `(r << 8) | op` as arithmetic. -/
theorem encode_toNat (i : Instr) : (encode i).toNat = i.rnd.toNat * 256 + i.opcode.toNat := by
  have hr : i.rnd.toNat < 8 := i.rnd.isLt
  have ho : i.opcode.toNat < 2 ^ 8 := i.opcode.isLt
  have h1 : (i.rnd.setWidth 64 <<< 8).toNat = i.rnd.toNat <<< 8 := by
    simp only [BitVec.toNat_shiftLeft, BitVec.toNat_setWidth, Nat.shiftLeft_eq]
    omega
  have h2 : (i.opcode.setWidth 64).toNat = i.opcode.toNat := by
    simp only [BitVec.toNat_setWidth]
    omega
  rw [encode, BitVec.toNat_or, h1, h2, ← Nat.shiftLeft_add_eq_or_of_lt ho, Nat.shiftLeft_eq]

/-- Everything the decoder can answer `ok` with: the row of the word's opcode, with RSV = 0, and RND a round index
where the row has one and 0 where it has none. -/
theorem decode_ok_cases {v : Word} {i : Instr} (h : decode v = .ok i) :
    rsvOf v = 0 ∧
    ((opcodeRow (opcodeOf v) = some (.plain i) ∧ rndOf v = 0) ∨
      ∃ f, opcodeRow (opcodeOf v) = some (.withRound f) ∧ rndOf v ≠ 7 ∧ i = f (rndOf v)) := by
  unfold decode at h
  split at h
  · cases h
  · rename_i row hrow
    split at h
    · cases h
    · rename_i hs
      refine ⟨by simpa using hs, ?_⟩
      split at h
      · rename_i f
        split at h
        · cases h
        · rename_i h7
          exact .inr ⟨f, hrow, h7, by cases h; rfl⟩
      · rename_i j
        split at h
        · cases h
        · rename_i h0
          cases h
          exact .inl ⟨hrow, by simpa using h0⟩

/-- A word whose opcode row has a round operand, RSV = 0 and RND not 7 decodes to it. -/
theorem decode_withRound {v : Word} {f : BitVec 3 → Instr} (ho : opcodeRow (opcodeOf v) = some (.withRound f))
    (hs : rsvOf v = 0) (hr : rndOf v ≠ 7) : decode v = .ok (f (rndOf v)) := by
  simpa [decode, ho, hs] using hr

/-- A word whose opcode row has no operand, RSV = 0 and RND = 0 decodes to it. -/
theorem decode_plain {v : Word} {i : Instr} (ho : opcodeRow (opcodeOf v) = some (.plain i))
    (hs : rsvOf v = 0) (hr : rndOf v = 0) : decode v = .ok i := by
  simp [decode, ho, hs, hr]

theorem roundInRange_iff (r : BitVec 3) : roundInRange r = true ↔ r ≠ 7 := by
  revert r
  decide

end Sys2Proof
end

