-- ==== Sys2Proof/Laws/Field.lean ====
section
/-! SUPPORT. What the field operations compute: as canonical integers, and as elements of ZMod p, where ring
reasoning applies. -/

namespace Sys2Proof.Machine

@[simp] theorem reduce_toNat (n : Nat) : (reduce n).toNat = n % Config.P := by
  have h : n % Config.P < Config.P := Nat.mod_lt _ (by norm_num)
  simp only [reduce, BitVec.toNat_ofNat]
  exact Nat.mod_eq_of_lt (lt_trans h (by norm_num))

theorem reduce_canonical (n : Nat) : Canonical (reduce n) := by
  simpa [Canonical] using Nat.mod_lt n (show 0 < Config.P by norm_num)

/-- Two words are equal when their integers are. -/
theorem word_ext {a b : Word} (h : a.toNat = b.toNat) : a = b := BitVec.eq_of_toNat_eq h

theorem fadd_toNat (a b : Word) : (fadd a b).toNat = (a.toNat + b.toNat) % Config.P := reduce_toNat _

theorem fmul_toNat (a b : Word) : (fmul a b).toNat = a.toNat * b.toNat % Config.P := reduce_toNat _

theorem fsq_toNat (a : Word) : (fsq a).toNat = a.toNat ^ 2 % Config.P := by
  rw [fsq, fmul_toNat, pow_two]

theorem fadd_canonical (a b : Word) : Canonical (fadd a b) := reduce_canonical _

theorem fsub_canonical (a b : Word) : Canonical (fsub a b) := reduce_canonical _

theorem fmul_canonical (a b : Word) : Canonical (fmul a b) := reduce_canonical _

theorem fsq_canonical (a : Word) : Canonical (fsq a) := reduce_canonical _

theorem zero_canonical : Canonical 0 := by
  show 0 < Config.P
  norm_num

/-! ### Words as elements of ZMod p -/

/-- The field element that a word stands for. -/
def felt (a : Word) : ZMod Config.P := (a.toNat : ZMod Config.P)

theorem felt_reduce (n : Nat) : felt (reduce n) = (n : ZMod Config.P) := by
  rw [felt, reduce_toNat, ZMod.natCast_mod]

@[simp] theorem felt_zero : felt 0#64 = 0 := by simp [felt]

@[simp] theorem felt_one : felt 1#64 = 1 := by simp [felt]

@[simp] theorem felt_fadd (a b : Word) : felt (fadd a b) = felt a + felt b := by
  rw [fadd, felt_reduce]
  simp [felt]

@[simp] theorem felt_fmul (a b : Word) : felt (fmul a b) = felt a * felt b := by
  rw [fmul, felt_reduce]
  simp [felt]

@[simp] theorem felt_fsq (a : Word) : felt (fsq a) = felt a ^ 2 := by
  rw [fsq, felt_fmul, pow_two]

@[simp] theorem felt_fsub (a b : Word) : felt (fsub a b) = felt a - felt b := by
  have h : 0 ≤ ((a.toNat : Int) - (b.toNat : Int)) % (Config.P : Int) := Int.emod_nonneg _ (by norm_num)
  rw [fsub, felt_reduce, ← Int.cast_natCast (R := ZMod Config.P), Int.toNat_of_nonneg h, ZMod.intCast_mod]
  simp [felt]

@[simp] theorem felt_fpow (a : Word) (k : Nat) : felt (fpow a k) = felt a ^ k := by
  induction k with
  | zero => exact felt_one
  | succ k ih => rw [fpow, felt_fmul, ih, pow_succ]

/-- Canonical words are equal when they stand for the same field element. -/
theorem canonical_ext {a b : Word} (ha : Canonical a) (hb : Canonical b) (h : felt a = felt b) : a = b := by
  apply word_ext
  rw [felt, felt, ZMod.natCast_eq_natCast_iff'] at h
  rwa [Nat.mod_eq_of_lt ha, Nat.mod_eq_of_lt hb] at h

/-- The integer of a canonical word, from its field element. -/
theorem canonical_toNat {a : Word} (ha : Canonical a) {n : Nat} (h : felt a = (n : ZMod Config.P)) :
    a.toNat = n % Config.P := by
  rw [felt, ZMod.natCast_eq_natCast_iff'] at h
  rw [← h, Nat.mod_eq_of_lt ha]

theorem canonicalWord_canonical (x : ZMod Config.P) : Canonical (Config.canonicalWord x) := by
  have h : x.val < Config.P := ZMod.val_lt x
  rw [Canonical, Config.canonicalWord, BitVec.toNat_ofNat, Nat.mod_eq_of_lt (lt_trans h (by norm_num))]
  exact h

@[simp] theorem felt_canonicalWord (x : ZMod Config.P) : felt (Config.canonicalWord x) = x := by
  have h : x.val < Config.P := ZMod.val_lt x
  rw [felt, Config.canonicalWord, BitVec.toNat_ofNat, Nat.mod_eq_of_lt (lt_trans h (by norm_num))]
  exact ZMod.natCast_zmod_val x

end Sys2Proof.Machine
end

