-- ==== Sys2Proof/Laws/Access.lean ====
section
/-! SUPPORT. What one host access can do, said once (20_memory.md R43 to R45, 30_encoding.md R65). -/

namespace Sys2Proof.Machine

theorem regAt_off (r : Reg) : regAt r.off = some r := by
  cases r with
  | id => rfl
  | cmd => rfl
  | status => rfl
  | s i => revert i; decide

/-- The only offset of a register is its own. -/
theorem off_of_regAt {off : BitVec 8} {r : Reg} (h : regAt off = some r) : off = r.off := by
  unfold regAt at h
  split at h
  · cases h; assumption
  split at h
  · cases h; assumption
  split at h
  · cases h; assumption
  split at h
  · rename_i hc
    cases h
    apply BitVec.eq_of_toNat_eq
    simp only [Reg.off, BitVec.toNat_ofNat]
    omega
  · cases h

/-- A legal access names a register, and ID only to read it. -/
theorem legal_iff (a : Access) :
    a.legal = true ↔ a.n = 8 ∧ ∃ r : Reg, a.off = r.off ∧ ¬ (a.kind = .write ∧ r = .id) := by
  have hreg : ∀ off : BitVec 8, (off.toNat % 8 == 0 &&
      (off == 0x00 || off == 0x08 || off == 0x10 || (0x40 ≤ off.toNat && off.toNat ≤ 0x98)) : Bool) =
      (regAt off).isSome := by decide
  have hid : ∀ r : Reg, (r.off == 0x00) = decide (r = .id) := by
    intro r
    cases r with
    | id => rfl
    | cmd => rfl
    | status => rfl
    | s i => revert i; decide
  have hk : (a.kind == AccessKind.write) = decide (a.kind = .write) := by
    cases a.kind <;> rfl
  unfold Access.legal
  rw [Bool.and_assoc (a.n == 8), hreg]
  constructor
  · intro h
    simp only [Bool.and_eq_true, beq_iff_eq, Option.isSome_iff_exists] at h
    obtain ⟨⟨hn, r, hr⟩, hw⟩ := h
    have ho := off_of_regAt hr
    refine ⟨hn, r, ho, ?_⟩
    rintro ⟨h1, h2⟩
    rw [ho, h1, h2] at hw
    exact absurd hw (by decide)
  · rintro ⟨hn, r, ho, hw⟩
    rw [ho, regAt_off, hid, hk]
    simpa [hn, imp_iff_not_or] using hw

/-- An access that is not legal is rejected with BAD_ACCESS. -/
theorem access_illegal {s : State} {a : Access} (h : a.legal = false) :
    s.access a = s.raiseErr a.kind .badAccess := by
  simp [State.access, h]

theorem access_read (s : State) (r : Reg) (w : Word) : s.access ⟨.read, r.off, 8, w⟩ = s.readReg r := by
  have h : (⟨.read, r.off, 8, w⟩ : Access).legal = true := (legal_iff _).mpr ⟨rfl, r, rfl, by simp⟩
  simp [State.access, h, regAt_off]

/-- A full-width write to a register's offset; ID's own rule is the rejection of R43 (d). -/
theorem access_write (s : State) (r : Reg) (v : Word) : s.access ⟨.write, r.off, 8, v⟩ = s.writeReg v r := by
  by_cases hr : r = .id
  · subst hr
    rfl
  · have h : (⟨.write, r.off, 8, v⟩ : Access).legal = true := (legal_iff _).mpr ⟨rfl, r, rfl, by simp [hr]⟩
    simp [State.access, h, regAt_off]

theorem issue_busy {s : State} (h : s.busy = true) (v : Word) : s.issue v = s.raiseErr .write .busy := by
  simp [State.issue, h]

theorem issue_reject {s : State} (h : s.busy = false) {v : Word} {why : Reject} (hd : decode v = .error why) :
    s.issue v = s.raiseErr .write (causeOfReject why) := by
  simp [State.issue, h, hd]

theorem issue_accept {s : State} (h : s.busy = false) {v : Word} {i : Instr} (hd : decode v = .ok i) :
    s.issue v = (s.accept v).okayWrite := by
  simp [State.issue, h, hd]

/-- Everything one host access can do. -/
theorem access_cases (s : State) (a : Access) :
    (∃ c, s.access a = s.raiseErr a.kind c) ∨
    (a.kind = .read ∧ ∃ r : Reg, a.off = r.off ∧ s.access a = s.okayRead (s.regValue r)) ∨
    (a = ⟨.write, Reg.cmd.off, 8, a.wdata⟩ ∧ s.busy = false ∧ (∃ i, decode a.wdata = .ok i) ∧
      s.access a = (s.accept a.wdata).okayWrite) ∨
    (a = ⟨.write, Reg.status.off, 8, a.wdata⟩ ∧ s.access a = (s.writeStatus a.wdata).okayWrite) ∨
    (∃ i, a = ⟨.write, (Reg.s i).off, 8, a.wdata⟩ ∧ s.busy = false ∧ Canonical a.wdata ∧
      s.access a = (s.setS i a.wdata).okayWrite) := by
  by_cases hl : a.legal = true
  · obtain ⟨hn, r, ho, hw⟩ := (legal_iff a).mp hl
    obtain ⟨k, off, n, v⟩ := a
    simp only at hn ho hw
    subst hn ho
    cases k with
    | read =>
      rw [access_read]
      cases r with
      | id => exact .inr (.inl ⟨rfl, .id, rfl, rfl⟩)
      | cmd => exact .inr (.inl ⟨rfl, .cmd, rfl, rfl⟩)
      | status => exact .inr (.inl ⟨rfl, .status, rfl, rfl⟩)
      | s i =>
        by_cases hb : s.busy = true
        · exact .inl ⟨.busy, by simp [State.readReg, hb]⟩
        · exact .inr (.inl ⟨rfl, .s i, rfl, by simp [State.readReg, hb, State.regValue]⟩)
    | write =>
      rw [access_write]
      cases r with
      | id => exact absurd ⟨rfl, rfl⟩ hw
      | cmd =>
        by_cases hb : s.busy = true
        · exact .inl ⟨.busy, issue_busy hb v⟩
        · have hb' : s.busy = false := by simpa using hb
          rcases hd : decode v with why | i
          · exact .inl ⟨causeOfReject why, issue_reject hb' hd⟩
          · exact .inr (.inr (.inl ⟨rfl, hb', ⟨i, rfl⟩, issue_accept hb' hd⟩))
      | status => exact .inr (.inr (.inr (.inl ⟨rfl, rfl⟩)))
      | s i =>
        by_cases hb : s.busy = true
        · exact .inl ⟨.busy, by simp [State.writeReg, hb]⟩
        · by_cases hc : Config.P ≤ v.toNat
          · exact .inl ⟨.noncanonical, by simp [State.writeReg, hb, hc]⟩
          · exact .inr (.inr (.inr (.inr ⟨i, rfl, by simpa using hb, Nat.lt_of_not_le hc,
              by simp [State.writeReg, hb, hc]⟩)))
  · exact .inl ⟨.badAccess, access_illegal (by simpa using hl)⟩

/-- A cause's code is never 0 NONE, and never above 5 (60_exceptions.md R201). -/
theorem code_ne_zero (c : ErrCause) : c.code ≠ 0 := by cases c <;> decide

theorem code_le_five (c : ErrCause) : c.code.toNat ≤ 5 := by cases c <;> decide

end Sys2Proof.Machine
end

