-- ==== Sys2Proof/Laws/Vectors.lean ====
section
/-! SUPPORT. Element i of each vector the engine computes, and that every such vector is canonical
(10_state.md R23). -/

namespace Sys2Proof.Machine

/-- Vectors are equal when their elements are. -/
theorem vec_ext {v w : Vec} (h : ∀ i : Fin 12, v[i] = w[i]) : v = w := by
  apply Vector.ext
  intro i hi
  exact h ⟨i, hi⟩

theorem vec_canonical_ext {v w : Vec} (hv : CanonicalVec v) (hw : CanonicalVec w)
    (h : ∀ i : Fin 12, felt v[i] = felt w[i]) : v = w :=
  vec_ext fun i => canonical_ext (hv i) (hw i) (h i)

theorem sboxVec_get (S : Vec) (i : Fin 12) : (sboxVec S)[i] = sbox S[i] := by simp [sboxVec]

theorem invSboxVec_get (S : Vec) (i : Fin 12) : (invSboxVec S)[i] = invSboxChain S[i] := by simp [invSboxVec]

theorem matvec_get (M : Fin 12 → Fin 12 → Word) (S : Vec) (i : Fin 12) :
    (matvec M S)[i] = reduce (∑ j : Fin 12, (M i j).toNat * (S[j]).toNat) := by simp [matvec]

theorem arkVec_get (T : Fin 7 → Fin 12 → Word) (r : Fin 7) (S : Vec) (i : Fin 12) :
    (arkVec T r S)[i] = fadd S[i] (T r i) := by simp [arkVec]

theorem unarkVec_get (T : Fin 7 → Fin 12 → Word) (r : Fin 7) (S : Vec) (i : Fin 12) :
    (unarkVec T r S)[i] = fsub S[i] (T r i) := by simp [unarkVec]

theorem felt_matvec (M : Fin 12 → Fin 12 → Word) (S : Vec) (i : Fin 12) :
    felt (matvec M S)[i] = ∑ j : Fin 12, felt (M i j) * felt S[j] := by
  rw [matvec_get, felt_reduce]
  simp [felt]

/-! ### Canonical results -/

theorem sbox_canonical (x : Word) : Canonical (sbox x) := fmul_canonical _ _

theorem invSboxChain_canonical (x : Word) : Canonical (invSboxChain x) := fmul_canonical _ _

theorem sboxVec_canonical (S : Vec) : CanonicalVec (sboxVec S) := fun i => by
  rw [sboxVec_get]
  exact sbox_canonical _

theorem invSboxVec_canonical (S : Vec) : CanonicalVec (invSboxVec S) := fun i => by
  rw [invSboxVec_get]
  exact invSboxChain_canonical _

theorem matvec_canonical (M : Fin 12 → Fin 12 → Word) (S : Vec) : CanonicalVec (matvec M S) := fun i => by
  rw [matvec_get]
  exact reduce_canonical _

theorem arkVec_canonical (T : Fin 7 → Fin 12 → Word) (r : Fin 7) (S : Vec) : CanonicalVec (arkVec T r S) :=
  fun i => by
    rw [arkVec_get]
    exact fadd_canonical _ _

theorem unarkVec_canonical (T : Fin 7 → Fin 12 → Word) (r : Fin 7) (S : Vec) : CanonicalVec (unarkVec T r S) :=
  fun i => by
    rw [unarkVec_get]
    exact fsub_canonical _ _

theorem roundVec_canonical (R : Config.Rom) (r : Fin 7) (S : Vec) : CanonicalVec (roundVec R r S) :=
  arkVec_canonical _ _ _

theorem permuteVec_eq (R : Config.Rom) (S : Vec) :
    permuteVec R S = roundVec R 6 (roundVec R 5 (roundVec R 4 (roundVec R 3 (roundVec R 2
      (roundVec R 1 (roundVec R 0 S)))))) := rfl

theorem permuteVec_canonical (R : Config.Rom) (S : Vec) : CanonicalVec (permuteVec R S) := by
  rw [permuteVec_eq]
  exact roundVec_canonical _ _ _

theorem mergeVec_canonical (R : Config.Rom) (S : Vec) : CanonicalVec (mergeVec R S) := permuteVec_canonical _ _

theorem zeroVec_canonical : CanonicalVec (Vector.replicate 12 0) := fun i => by
  simpa using zero_canonical

theorem setS_canonical {S : Vec} (h : CanonicalVec S) (i : Fin 12) {v : Word} (hv : Canonical v) :
    CanonicalVec (S.set i v) := fun j => by
  by_cases hij : i = j
  · subst hij
    simpa using hv
  · have : (i : Nat) ≠ j := fun h' => hij (Fin.ext h')
    simpa [Vector.getElem_set, this] using h j

end Sys2Proof.Machine
end

