-- ==== Sys2Proof/Laws/Exec.lean ====
section
/-! SUPPORT. What `exec` can answer, said once: the result of each command as a function of S
(30_encoding.md R68 `exec(op, r, S)`), and that completing is all that happens besides. -/

namespace Sys2Proof.Machine

/-- `exec(op, r, S)` of 30_encoding.md R68, on the round index the operand gives. -/
def commandResult (R : Config.Rom) (S : Vec) : Instr → Option Vec
  | .nop => some S
  | .sbox => some (sboxVec S)
  | .invSbox => some (invSboxVec S)
  | .mdsMul => some (matvec R.mds S)
  | .invMdsMul => some (matvec R.invMds S)
  | .addArk1 r => (roundIndex r).map fun k => arkVec R.ark1 k S
  | .addArk2 r => (roundIndex r).map fun k => arkVec R.ark2 k S
  | .round r => (roundIndex r).map fun k => roundVec R k S
  | .permute => some (permuteVec R S)
  | .merge => some (mergeVec R S)
  | .clear => some (Vector.replicate 12 0)

theorem roundIndex_of_lt {r : BitVec 3} (h : r.toNat < 7) : roundIndex r = some ⟨r.toNat, h⟩ := by
  simp [roundIndex, h]

theorem roundIndex_eq_none {r : BitVec 3} (h : ¬ r.toNat < 7) : roundIndex r = none := by
  simp [roundIndex, h]

theorem withRoundIndex_of_lt {r : BitVec 3} (h : r.toNat < 7) (f : Fin 7 → State) :
    withRoundIndex r f = .next (f ⟨r.toNat, h⟩) := by
  simp [withRoundIndex, roundIndex_of_lt h]

theorem finish_completedFrom (s : State) (v : Vec) : CompletedFrom s (s.finish v) :=
  ⟨rfl, rfl, rfl, rfl, rfl, rfl, rfl, rfl⟩

theorem withRoundIndex_cases {r : BitVec 3} {f : Fin 7 → State} {t : State} (h : withRoundIndex r f = .next t) :
    ∃ k, roundIndex r = some k ∧ t = f k := by
  unfold withRoundIndex at h
  split at h
  · rename_i k hk
    cases h
    exact ⟨k, hk, rfl⟩
  · cases h

/-- Everything a command that answers `next t` has done. -/
theorem exec_next_cases {i : Instr} {s t : State} (h : exec i s = .next t) :
    CompletedFrom s t ∧ commandResult Config.rom s.S i = some t.S := by
  cases i with
  | nop => cases h; exact ⟨finish_completedFrom _ _, rfl⟩
  | sbox => cases h; exact ⟨finish_completedFrom _ _, rfl⟩
  | invSbox => cases h; exact ⟨⟨rfl, rfl, rfl, rfl, rfl, rfl, rfl, rfl⟩, rfl⟩
  | mdsMul => cases h; exact ⟨finish_completedFrom _ _, rfl⟩
  | invMdsMul => cases h; exact ⟨finish_completedFrom _ _, rfl⟩
  | addArk1 r =>
    obtain ⟨k, hk, rfl⟩ := withRoundIndex_cases h
    exact ⟨finish_completedFrom _ _, by simp [commandResult, hk]⟩
  | addArk2 r =>
    obtain ⟨k, hk, rfl⟩ := withRoundIndex_cases h
    exact ⟨finish_completedFrom _ _, by simp [commandResult, hk]⟩
  | round r =>
    obtain ⟨k, hk, rfl⟩ := withRoundIndex_cases h
    exact ⟨⟨rfl, rfl, rfl, rfl, rfl, rfl, rfl, rfl⟩, by simp [commandResult, hk]⟩
  | permute => cases h; exact ⟨⟨rfl, rfl, rfl, rfl, rfl, rfl, rfl, rfl⟩, rfl⟩
  | merge => cases h; exact ⟨⟨rfl, rfl, rfl, rfl, rfl, rfl, rfl, rfl⟩, rfl⟩
  | clear => cases h; exact ⟨finish_completedFrom _ _, rfl⟩

/-- A command's result is canonical when the state it ran on is. -/
theorem commandResult_canonical {R : Config.Rom} {S v : Vec} {i : Instr} (hS : CanonicalVec S)
    (h : commandResult R S i = some v) : CanonicalVec v := by
  cases i with
  | nop => cases h; exact hS
  | sbox => cases h; exact sboxVec_canonical _
  | invSbox => cases h; exact invSboxVec_canonical _
  | mdsMul => cases h; exact matvec_canonical _ _
  | invMdsMul => cases h; exact matvec_canonical _ _
  | addArk1 r => obtain ⟨k, -, rfl⟩ := Option.map_eq_some_iff.mp h; exact arkVec_canonical _ _ _
  | addArk2 r => obtain ⟨k, -, rfl⟩ := Option.map_eq_some_iff.mp h; exact arkVec_canonical _ _ _
  | round r => obtain ⟨k, -, rfl⟩ := Option.map_eq_some_iff.mp h; exact roundVec_canonical _ _ _
  | permute => cases h; exact permuteVec_canonical _ _
  | merge => cases h; exact mergeVec_canonical _ _
  | clear => cases h; exact zeroVec_canonical

end Sys2Proof.Machine
end

