-- ==== Sys2Proof/Laws/PerInstr.lean ====
section
/-! SUPPORT. The family EncodeFields: what the three fields of an encoded command hold (30_encoding.md R61, R71), one
lemma for each constructor. -/

namespace Sys2Proof.Laws.EncodeFields

/-- The word of a command carries its opcode, its round operand and zero in the reserved field. -/
def Statement (i : Instr) : Prop :=
  opcodeOf (encode i) = i.opcode ∧ rndOf (encode i) = i.rnd ∧ rsvOf (encode i) = 0

theorem nop : Statement .nop := by unfold Statement; decide
theorem sbox : Statement .sbox := by unfold Statement; decide
theorem invSbox : Statement .invSbox := by unfold Statement; decide
theorem mdsMul : Statement .mdsMul := by unfold Statement; decide
theorem invMdsMul : Statement .invMdsMul := by unfold Statement; decide
theorem addArk1 : ∀ r, Statement (.addArk1 r) := by unfold Statement; decide
theorem addArk2 : ∀ r, Statement (.addArk2 r) := by unfold Statement; decide
theorem round : ∀ r, Statement (.round r) := by unfold Statement; decide
theorem permute : Statement .permute := by unfold Statement; decide
theorem merge : Statement .merge := by unfold Statement; decide
theorem clear : Statement .clear := by unfold Statement; decide

end Sys2Proof.Laws.EncodeFields
end

