-- ==== Sys2Proof/Laws/Prime.lean ====
section
/-! SUPPORT. The modulus is prime ("the field's prime", 40_field_arithmetic.md R87), by Lucas' test with the base 7 on
the factorisation R87 (a) of p − 1. -/

namespace Sys2Proof.Machine

/-- b to the number whose binary digits (most significant first) follow those already in acc, modulo m. -/
def powBits (b m : Nat) : List Bool → Nat → Nat
  | [], acc => acc
  | d :: ds, acc => powBits b m ds (acc * acc % m * (if d then b else 1) % m)

/-- The number of binary digits read after n. -/
def bitsAfter : List Bool → Nat → Nat
  | [], n => n
  | d :: ds, n => bitsAfter ds (2 * n + d.toNat)

theorem powBits_eq (b m : Nat) : ∀ (ds : List Bool) (n : Nat),
    powBits b m ds (b ^ n % m) = b ^ bitsAfter ds n % m
  | [], _ => rfl
  | d :: ds, n => by
    have h : b ^ n % m * (b ^ n % m) % m * (if d then b else 1) % m = b ^ (2 * n + d.toNat) % m := by
      have hd : (if d then b else 1) = b ^ d.toNat := by cases d <;> simp
      rw [hd, ← Nat.mul_mod, Nat.mod_mul_mod, ← pow_add, ← pow_add, two_mul]
    rw [powBits, bitsAfter, h, powBits_eq b m ds]

/-- The binary digits of n, most significant first, as many as fuel allows. -/
def digitsOf : Nat → Nat → List Bool → List Bool
  | 0, _, acc => acc
  | fuel + 1, n, acc => digitsOf fuel (n / 2) ((n % 2 == 1) :: acc)

/-- 7^n mod p, computed by squaring. -/
theorem pow7_mod {n k : Nat} (hn : bitsAfter (digitsOf 64 n []) 0 = n)
    (hk : powBits 7 Config.P (digitsOf 64 n []) 1 = k) : (7 : ZMod Config.P) ^ n = (k : ZMod Config.P) := by
  have h := powBits_eq 7 Config.P (digitsOf 64 n []) 0
  rw [hn] at h
  have h1 : 7 ^ 0 % Config.P = 1 := by norm_num
  rw [h1, hk] at h
  rw [h, ZMod.natCast_mod]
  push_cast
  rfl

theorem pow7_ne_one {n : Nat} (hn : bitsAfter (digitsOf 64 n []) 0 = n)
    (h : powBits 7 Config.P (digitsOf 64 n []) 1 % Config.P ≠ 1 % Config.P) : (7 : ZMod Config.P) ^ n ≠ 1 := by
  intro h1
  rw [pow7_mod hn rfl] at h1
  exact h ((ZMod.natCast_eq_natCast_iff' _ 1 _).mp (by simpa using h1))

/-- The prime divisors of p − 1 = 2^32 · 3 · 5 · 17 · 257 · 65537. -/
theorem prime_divisors {q : Nat} (hq : q.Prime) (hd : q ∣ Config.P - 1) :
    q = 2 ∨ q = 3 ∨ q = 5 ∨ q = 17 ∨ q = 257 ∨ q = 65537 := by
  have hf : Config.P - 1 = 2 ^ 32 * 3 * 5 * 17 * 257 * 65537 := by norm_num
  have hp : ∀ {r : Nat}, r.Prime → q ∣ r → q = r := fun hr h => (Nat.prime_dvd_prime_iff_eq hq hr).mp h
  rw [hf] at hd
  simp only [hq.dvd_mul] at hd
  rcases hd with ((((h | h) | h) | h) | h) | h
  · exact .inl (hp Nat.prime_two (hq.dvd_of_dvd_pow h))
  · exact .inr (.inl (hp Nat.prime_three h))
  · exact .inr (.inr (.inl (hp Nat.prime_five h)))
  · exact .inr (.inr (.inr (.inl (hp (by norm_num) h))))
  · exact .inr (.inr (.inr (.inr (.inl (hp (by norm_num) h)))))
  · exact .inr (.inr (.inr (.inr (.inr (hp (by norm_num) h)))))

theorem modulus_prime : Nat.Prime Config.P := by
  have h1 : (7 : ZMod Config.P) ^ (Config.P - 1) = 1 := by
    rw [pow7_mod (k := 1) (by decide +kernel) (by decide +kernel), Nat.cast_one]
  refine lucas_primality Config.P 7 h1 fun q hq hd => ?_
  rcases prime_divisors hq hd with rfl | rfl | rfl | rfl | rfl | rfl
  · exact pow7_ne_one (by decide +kernel) (by decide +kernel)
  · exact pow7_ne_one (by decide +kernel) (by decide +kernel)
  · exact pow7_ne_one (by decide +kernel) (by decide +kernel)
  · exact pow7_ne_one (by decide +kernel) (by decide +kernel)
  · exact pow7_ne_one (by decide +kernel) (by decide +kernel)
  · exact pow7_ne_one (by decide +kernel) (by decide +kernel)

end Sys2Proof.Machine
end

