-- ==== Sys2Proof/Laws/Step.lean ====
section
/-! SUPPORT. What one step can do, said once: the engine's turn, a host access or a reset (20_memory.md R47). -/

namespace Sys2Proof.Machine

theorem step_nil {s : State} (h : s.agenda = []) : step s = engineTurn s := by simp [step, h]

theorem step_complete {s : State} {rest : List Event} (h : s.agenda = .complete :: rest) :
    step s = engineTurn s.popEvent := by simp [step, h, takeEvent, State.popEvent]

theorem step_access {s : State} {a : Access} {rest : List Event} (h : s.agenda = .access a :: rest) :
    step s = .next (s.popEvent.access a) := by simp [step, h, takeEvent, State.popEvent]

theorem step_reset {s : State} {rest : List Event} (h : s.agenda = .reset :: rest) :
    step s = .next s.popEvent.resetBlock := by simp [step, h, takeEvent, State.popEvent]

/-- On the engine's turn a step is the engine's, on the agenda without that turn. -/
theorem step_engine {s : State} (h : EngineTurnNext s) : step s = engineTurn s.popEvent := by
  rcases h with h | ⟨rest, h⟩
  · rw [step_nil h]
    congr 1
    cases s
    simp_all [State.popEvent]
  · exact step_complete h

theorem engineTurn_idle {s : State} (h : s.pending = none) : engineTurn s = .next s := by
  simp [engineTurn, h]

theorem engineTurn_command {s : State} {v : Word} {i : Instr} (h : s.pending = some v) (hd : decode v = .ok i) :
    engineTurn s = exec i s := by
  simp [engineTurn, h, hd]

/-- Everything the engine's turn can do when it answers a next state. -/
theorem engineTurn_cases {s t : State} (h : engineTurn s = .next t) :
    (s.pending = none ∧ t = s) ∨
    (∃ v i, s.pending = some v ∧ decode v = .ok i ∧ exec i s = .next t) := by
  unfold engineTurn at h
  split at h
  · rename_i hp
    cases h
    exact .inl ⟨hp, rfl⟩
  · rename_i v hp
    split at h
    · rename_i i hd
      exact .inr ⟨v, i, hp, hd, h⟩
    · cases h

/-- Everything one step can do when it answers a next state. -/
theorem step_cases {s t : State} (h : step s = .next t) :
    (EngineTurnNext s ∧ engineTurn s.popEvent = .next t) ∨
    (∃ a rest, s.agenda = .access a :: rest ∧ t = s.popEvent.access a) ∨
    (∃ rest, s.agenda = .reset :: rest ∧ t = s.popEvent.resetBlock) := by
  rcases ha : s.agenda with _ | ⟨e, rest⟩
  · have he : EngineTurnNext s := .inl ha
    exact .inl ⟨he, step_engine he ▸ h⟩
  · cases e with
    | access a =>
      rw [step_access ha] at h
      cases h
      exact .inr (.inl ⟨a, rest, rfl, rfl⟩)
    | complete =>
      have he : EngineTurnNext s := .inr ⟨rest, ha⟩
      exact .inl ⟨he, step_engine he ▸ h⟩
    | reset =>
      rw [step_reset ha] at h
      cases h
      exact .inr (.inr ⟨rest, rfl, rfl⟩)

end Sys2Proof.Machine
end

