-- ==== Sys2Proof/Tests/Slice0.lean ====
section
/-! SUPPORT. The model's own tests and the witnesses of the statements' hypotheses. Every expected value comes from
the spec: the command words from 30_encoding.md R61 and R62 written out bit by bit, the numbers from
95_test_vectors.md (under its test configuration T1 where the tables matter) and from the rules' own examples. -/

namespace Sys2Proof.Machine.Tests

/-! ### WellFormed: each check refuses an ill-formed term (30_encoding.md R63) -/

theorem test_wellFormed_addArk1_seven : (Instr.addArk1 7).wellFormed = false := by decide
theorem test_wellFormed_addArk2_seven : (Instr.addArk2 7).wellFormed = false := by decide
theorem test_wellFormed_round_seven : (Instr.round 7).wellFormed = false := by decide
theorem test_wellFormed_round_six : (Instr.round 6).wellFormed = true := by decide

/-! ### Decoding: words written out from the fields RSV, RND, OPCODE of R61 -/

/-- A command word from its three fields, most significant first. -/
def word (rsv : BitVec 53) (rnd : BitVec 3) (op : BitVec 8) : Word := rsv ++ rnd ++ op

theorem test_decode_nop : decode (word 0 0b000 0b00000000) = .ok .nop := by decide
theorem test_decode_sbox : decode (word 0 0b000 0b00000001) = .ok .sbox := by decide
theorem test_decode_invSbox : decode (word 0 0b000 0b00000010) = .ok .invSbox := by decide
theorem test_decode_mdsMul : decode (word 0 0b000 0b00000011) = .ok .mdsMul := by decide
theorem test_decode_invMdsMul : decode (word 0 0b000 0b00000100) = .ok .invMdsMul := by decide
theorem test_decode_addArk1 : decode (word 0 0b011 0b00000101) = .ok (.addArk1 3) := by decide
theorem test_decode_addArk2 : decode (word 0 0b110 0b00000110) = .ok (.addArk2 6) := by decide
theorem test_decode_round : decode (word 0 0b001 0b00000111) = .ok (.round 1) := by decide
theorem test_decode_permute : decode (word 0 0b000 0b00001000) = .ok .permute := by decide
theorem test_decode_merge : decode (word 0 0b000 0b00001001) = .ok .merge := by decide
theorem test_decode_clear : decode (word 0 0b000 0b00001010) = .ok .clear := by decide

/-- The rejected words of 95_test_vectors.md 3.10. -/
theorem test_decode_illegal :
    [0x000000000000000B, 0x00000000000000FF, 0x0000000000000101, 0x0000000000000100, 0x0000000000000708,
      0x0000000000000800, 0x8000000000000007, 0x0000000000000F07, 0x000000000000010B, 0x0000000100000000].all
      (fun v => decode v = .error .illegalCmd) = true := by decide

theorem test_decode_badRound :
    [0x705, 0x706, 0x707].all (fun v => decode v = .error .badRound) = true := by decide

theorem test_encode_addArk1 : encode (.addArk1 3) = 0x0000000000000305 := by decide
theorem test_encode_round : encode (.round 6) = 0x0000000000000607 := by decide

/-- The bytes of a command word, lowest offset first (20_memory.md R42). -/
theorem test_decodeBytes : decodeBytes [0x05, 0x03, 0, 0, 0, 0, 0, 0] = .ok (.addArk1 3) := by decide
theorem test_decodeBytes_short : decodeBytes [0x05, 0x03, 0, 0] = .error .wrongLength := by decide

/-- 95_test_vectors.md 3.11: the bytes of p − 1 and of ID. -/
theorem test_lanes_p_minus_one : lanesOf 0xFFFFFFFF00000000 = [0, 0, 0, 0, 0xFF, 0xFF, 0xFF, 0xFF] := by decide
theorem test_lanes_id : lanesOf idWord = [0x0C, 0x07, 0x04, 0x04, 0x08, 0x01, 0x00, 0x00] := by decide

theorem test_decodeTableWord : decodeTableWord 64 0x607 = some (.round 6) := by decide
theorem test_decodeTableWord_short : decodeTableWord 8 0x0A = some .clear := by decide

/-! ### Field arithmetic (95_test_vectors.md 3.1) -/

theorem test_fadd_wraps : fadd 9223372036854775808 9223372036854775808 = 4294967295 := by decide
theorem test_fsub_wraps : fsub 5 7 = 18446744069414584319 := by decide
theorem test_fmul_large : fmul 12345678901234567 98765432109876543 = 7440463762708928755 := by decide
theorem test_fsq_wraps : fsq 281474976710656 = 18446744069414584320 := by decide
theorem test_fpow_zero_zero : fpow 0 0 = 1 := by decide

/-! ### The S-box engine (95_test_vectors.md 3.2, 3.3) -/

theorem test_sbox : sbox 12345678901234567 = 7889275719103395241 := by decide
theorem test_sbox_top : sbox 18446744069414584319 = 18446744069414584193 := by decide
theorem test_invSboxChain : invSboxChain 12345678901234567 = 3717896910104028060 := by decide +kernel
theorem test_invSboxChain_two : invSboxChain 2 = 36028797018963968 := by decide +kernel

/-- The temporaries of the chain for x = 3. -/
theorem test_chain_temporaries :
    let t2 : Word := fsq (fsq 3)
    let t3 := expAcc t2 t2 3
    let t4 := expAcc t3 t3 6
    let t5 := expAcc t4 t4 12
    let t6 := expAcc t5 t3 6
    let t7 := expAcc t6 t6 31
    t3 = 150094635296999121 ∧ t4 = 14797109378968009689 ∧ t5 = 7402689312900557654 ∧
      t6 = 10053667056613649742 ∧ t7 = 12379233951526810673 := by decide +kernel

theorem test_chain_cost :
    (Counted.invSboxChain 3).sqs = 63 ∧ (Counted.invSboxChain 3).muls = 9 := by decide +kernel

/-! ### The test configuration T1 (95_test_vectors.md section 2) -/

/-- INV_MDS[0][k] under T1. -/
def t1Row : Vector Word 12 :=
  #v[13545631115196496961, 2450556477109043680, 17221465830860062481, 612639119277260920, 18140424509775953861,
    153159779819315230, 18370164179504926706, 9261661979662120968, 13815913079583523837, 2315415494915530242,
    17289036321956819200, 9802225908436174721]

/-- T1: MDS is 2 on the diagonal and 1 on the next element, INV_MDS is circulant, ARK1[r][i] = 12r + i + 1,
ARK2[r][i] = 1000 + 12r + i. -/
def t1 : Config.Rom where
  mds i j := if j = i then 2 else if j = i + 1 then 1 else 0
  invMds i j := t1Row[j - i]
  ark1 r i := BitVec.ofNat 64 (12 * r.val + i.val + 1)
  ark2 r i := BitVec.ofNat 64 (1000 + 12 * r.val + i.val)

theorem test_t1_law : t1.Law := by unfold Config.Rom.Law; decide +kernel

/-- [1, ..., 12]. -/
def count : Vec := #v[1, 2, 3, 4, 5, 6, 7, 8, 9, 10, 11, 12]

/-- All elements p − 1. -/
def top : Vec := Vector.replicate 12 18446744069414584320

theorem test_matvec : matvec t1.mds count = #v[4, 7, 10, 13, 16, 19, 22, 25, 28, 31, 34, 25] := by decide +kernel

theorem test_matvec_inverse :
    matvec t1.invMds #v[4, 7, 10, 13, 16, 19, 22, 25, 28, 31, 34, 25] = count := by decide +kernel

theorem test_ark1 : arkVec t1.ark1 3 top = #v[36, 37, 38, 39, 40, 41, 42, 43, 44, 45, 46, 47] := by decide +kernel

theorem test_ark2 : arkVec t1.ark2 6 (Vector.replicate 12 18446744069414583321) =
    #v[72, 73, 74, 75, 76, 77, 78, 79, 80, 81, 82, 83] := by decide +kernel

/-- 95_test_vectors.md 3.6. -/
theorem test_round : roundVec t1 6 count =
    #v[16105036005020640107, 4073174671538216848, 7091591756886418081, 12255754607392199132, 9943240294134336851,
      15244082324242511201, 11262738986636996521, 12609392132152047720, 3537511118152836565, 10146018849765745598,
      14127341264799556802, 3112159226999709979] := by decide +kernel

/-- 95_test_vectors.md 3.7. -/
theorem test_permute : permuteVec t1 count =
    #v[4627031629254387378, 17583945925549252413, 17223589723989466718, 14280546163643122126, 2679438863392462341,
      2367078875665236166, 17703898979073186725, 133090568842149417, 10271115369276989825, 1471906940282679438,
      6037476944934059953, 1406180114919046682] := by decide +kernel

/-- 95_test_vectors.md 3.7: both sides of the round-check relation, C = [1, ..., 12], r = 4. -/
theorem test_roundCheck :
    checkFromCurrent t1 4 count = #v[179, 2493, 20809, 110945, 436239, 1383469, 3744293, 8977329, 19565995, 39487229,
      74806209, 71663677] ∧ roundInvVec t1 4 (roundVec t1 4 count) = count := by decide +kernel

/-- 95_test_vectors.md 3.8: A = B = [1, 1, 1, 1]; the old capacity does not matter. -/
theorem test_merge : digest (mergeVec t1 #v[9, 9, 9, 9, 1, 1, 1, 1, 1, 1, 1, 1]) =
    #v[9304935968573008165, 6666172443341884995, 4273022666569846373, 15649061199567631629] := by decide +kernel

/-! ### Commands: one completion each -/

/-- A running command: the state after an accepted CMD write on the given registers. -/
def running (i : Instr) (S : Vec) : State := ({ State.reset with S := S }).accept (encode i)

/-- Does the outcome hold a next state that passes the check? -/
def nextHas (check : State → Bool) : Host.Outcome State Fault Refusal → Bool
  | .next t => check t
  | .fault _ => false
  | .refused _ => false

/-- STATUS reads 0x2 after completion (95_test_vectors.md 3.9). -/
def completedWith (S : Vec) (t : State) : Bool := t.S = S && t.statusWord = 0x2 && t.pending = none

theorem test_exec_nop : nextHas (completedWith count) (exec .nop (running .nop count)) = true := by decide +kernel

theorem test_exec_clear :
    nextHas (completedWith (Vector.replicate 12 0)) (exec .clear (running .clear top)) = true := by decide +kernel

/-- Program P1's vector (95_test_vectors.md section 4). -/
def p1 : Vec := #v[0, 1, 2, 3, 128, 18446744069414584320, 18446744069414584319, 4294967296, 4294967295,
  9223372036854775808, 12345678901234567, 7]

/-- P1 after SBOX. -/
def p1Sbox : Vec := #v[0, 1, 128, 2187, 562949953421312, 18446744069414584320, 18446744069414584193, 4294967296,
  4294967295, 144115188075855872, 7889275719103395241, 823543]

theorem test_exec_sbox : nextHas (completedWith p1Sbox) (exec .sbox (running .sbox p1)) = true := by decide +kernel

theorem test_exec_invSbox :
    nextHas (completedWith p1) (exec .invSbox (running .invSbox p1Sbox)) = true := by decide +kernel

/-- Each lane of a table command reads its own state, ROM row and flags: the handshake on any tables. -/
theorem test_exec_handshake :
    [Instr.mdsMul, .invMdsMul, .addArk1 6, .addArk2 0, .round 3, .permute, .merge].all (fun i =>
      nextHas (fun t => t.statusWord = 0x2 && t.pending = none && t.cmd = encode i) (exec i (running i count))) =
    true := by decide +kernel

theorem test_exec_ill_formed : exec (.round 7) State.reset = .fault .roundOutOfRange := rfl

/-! ### Host accesses (95_test_vectors.md 3.11) -/

/-- The last response of a state. -/
def answer (s : State) : Option Response := s.responses.getLast?

/-- The access is rejected with this STATUS afterwards. -/
def rejected (s : State) (a : Access) (rdata : Option Word) (status : Word) : Bool :=
  answer (s.access a) = some ⟨rdata, false⟩ && (s.access a).statusWord = status

theorem test_read_id : answer (State.reset.access ⟨.read, 0x00, 8, 0⟩) = some ⟨some 0x000001080404070C, true⟩ := by
  decide

theorem test_write_element : (State.reset.access ⟨.write, 0x98, 8, 18446744069414584320⟩).S =
    (State.reset.setS 11 18446744069414584320).S := by decide

theorem test_write_noncanonical :
    rejected State.reset ⟨.write, 0x40, 8, 18446744069414584321⟩ none 0x34 = true := by decide

theorem test_bad_accesses :
    [(⟨.write, 0x00, 8, 0⟩ : Access), ⟨.write, 0xF8, 8, 1⟩, ⟨.write, 0x08, 4, 0x8⟩].all
      (fun a => rejected State.reset a none 0x54) = true ∧
    [(⟨.read, 0x18, 8, 0⟩ : Access), ⟨.read, 0x38, 8, 0⟩, ⟨.read, 0xA0, 8, 0⟩, ⟨.read, 0x40, 4, 0⟩,
      ⟨.read, 0x44, 8, 0⟩].all (fun a => rejected State.reset a (some 0) 0x54) = true := by decide

theorem test_write_status_all_ones :
    (State.reset.access ⟨.write, 0x10, 8, 0xFFFFFFFFFFFFFFFF⟩).statusWord = 0 := by decide

/-- The busy hazard of 95_test_vectors.md 3.12. -/
theorem test_busy_hazard :
    rejected (running .permute count) ⟨.read, 0x60, 8, 0⟩ (some 0) 0x45 = true ∧
    rejected (running .permute count) ⟨.write, 0x60, 8, 18446744069414584321⟩ none 0x45 = true ∧
    rejected (running .permute count) ⟨.write, 0x08, 8, 0x0B⟩ none 0x45 = true ∧
    rejected (running .permute count) ⟨.write, 0x08, 4, 0x1⟩ none 0x55 = true ∧
    answer ((running .permute count).access ⟨.read, 0x08, 8, 0⟩) = some ⟨some 0x8, true⟩ := by decide

/-- The sticky record of 95_test_vectors.md 3.12: NONCANONICAL, then BAD_ROUND, then ILLEGAL_CMD, then `ack`. -/
theorem test_sticky_record :
    let s := ((State.reset.access ⟨.write, 0x40, 8, 18446744069414584321⟩).access ⟨.write, 0x08, 8, 0x707⟩).access
      ⟨.write, 0x08, 8, 0xFF⟩
    s.statusWord = 0x34 ∧ (s.access ⟨.write, 0x10, 8, 0x6⟩).statusWord = 0 := by decide

/-! ### Steps -/

/-- Each row's word runs as the very next step (here SBOX on the reset state). -/
theorem test_step_withFetchWord :
    nextHas (fun t => t.statusWord = 0x2 && t.cmd = 0x1) (step (State.reset.withFetchWord 64 0x1)) = true := by decide +kernel

/-- 95_test_vectors.md 3.13: reset while PERMUTE runs, with an error recorded. -/
theorem test_step_reset :
    nextHas (fun t => t.S = Vector.replicate 12 0 && t.statusWord = 0 && t.cmd = 0 && t.pending = none)
      (step { running .permute count with agenda := [.reset], err := true, errcode := 3 }) = true := by decide +kernel

theorem test_step_idle : step State.reset = .next State.reset := rfl

theorem test_step_undecodable :
    step { State.reset with pending := some 0x0B } = .fault .pendingNotACommand := rfl

/-! ### Witnesses: for every statement with hypotheses, states and operands that meet all of them together, each
clause at the ends of its range -/

/-- FieldAdditionIsExact, FieldSubtractionIsExact, FieldMultiplicationIsExact, CanonicalWordsAreAField and the first
clause of SboxesAreInverse: the ends of the field. -/
theorem witness_canonical_words : Canonical 0 ∧ Canonical 0xFFFF_FFFF_0000_0000 ∧
    (0xFFFF_FFFF_0000_0000 : Word) ≠ 0 ∧ ¬ Canonical 0xFFFF_FFFF_0000_0001 := by
  unfold Canonical; decide

theorem witness_canonical_count : CanonicalVec count := by unfold CanonicalVec Canonical; decide
theorem witness_canonical_top : CanonicalVec top := by unfold CanonicalVec Canonical; decide
theorem witness_canonical_reset : CanonicalVec State.reset.S := by unfold CanonicalVec Canonical; decide

/-- SboxesAreInverse and DiffusionsAreInverse: a state of canonical registers at the top of the field. -/
theorem witness_canonical_state : CanonicalVec (running .sbox top).S := witness_canonical_top

/-- DiffusionsAreInverse, RoundAndPermuteAreBijections: a lawful table and canonical vectors. -/
theorem witness_lawful_table : t1.Law ∧ CanonicalVec count ∧ CanonicalVec top :=
  ⟨test_t1_law, witness_canonical_count, witness_canonical_top⟩

/-- RoundCheckCharacterisesRound: a pair on which both sides hold, and one on which both fail. -/
theorem witness_roundCheck : t1.Law ∧ CanonicalVec count ∧ CanonicalVec (roundVec t1 6 count) ∧
    checkFromNext t1 6 (roundVec t1 6 count) = checkFromCurrent t1 6 count ∧ CanonicalVec top ∧
    checkFromNext t1 6 top ≠ checkFromCurrent t1 6 count := by
  refine ⟨test_t1_law, witness_canonical_count, ?_, ?_, witness_canonical_top, ?_⟩
  · unfold CanonicalVec Canonical; decide +kernel
  · decide +kernel
  · decide +kernel

/-- AddArkCompletes, RoundCompletes, RoundAndPermuteDecompose, and IllFormedRoundStops: the ends of the round index. -/
theorem witness_round_index :
    (0 : BitVec 3).toNat < 7 ∧ (6 : BitVec 3).toNat < 7 ∧ ¬ (7 : BitVec 3).toNat < 7 := by decide

/-- MergeIsCapacityWritesAndPermute: an idle state, and two states that differ in their capacity only. -/
theorem witness_merge : State.reset.busy = false ∧
    (∀ i : Fin 12, 4 ≤ i.val → (running .merge #v[9, 9, 9, 9, 5, 6, 7, 8, 9, 10, 11, 12]).S[i] =
      (running .merge count).S[i]) ∧
    (running .merge #v[9, 9, 9, 9, 5, 6, 7, 8, 9, 10, 11, 12]).S ≠ (running .merge count).S := by decide

/-- Hash2ReadsTheMergedDigest: an idle block with the script on its agenda, digests at both ends of the field. -/
def hashing : State :=
  { State.reset with agenda := hash2 #v[0, 1, 2, 0xFFFF_FFFF_0000_0000] #v[5, 6, 7, 8] 2 }

theorem witness_hash2 : hashing.busy = false ∧ hashing.pending = none ∧
    (∀ i : Fin 4, Canonical (#v[0, 1, 2, 0xFFFF_FFFF_0000_0000] : Vector Word 4)[i] ∧
      Canonical (#v[5, 6, 7, 8] : Vector Word 4)[i]) ∧
    hashing.agenda = hash2 #v[0, 1, 2, 0xFFFF_FFFF_0000_0000] #v[5, 6, 7, 8] 2 := by
  unfold Canonical; decide

/-- CommandsLeaveTheRestOfTheWindow: NOP at the ends of both ranges of the offset, CLEAR at those outside S, and the
ends of the reserved ranges. -/
theorem witness_command_frame :
    (∃ t, exec .nop (running .nop count) = .next t) ∧ (∃ t, exec .clear (running .clear count) = .next t) ∧
    [0x00, 0x0F, 0x18, 0x3F, 0x40, 0x9F, 0xA0, 0xFF].all
      (fun off : BitVec 8 => (decide (0x18 ≤ off.toNat) || decide (off.toNat < 0x10))) = true ∧
    [0x18, 0x3F, 0xA0, 0xFF].all
      (fun off : BitVec 8 => decide ((0x18 ≤ off.toNat ∧ off.toNat < 0x40) ∨ 0xA0 ≤ off.toNat)) = true :=
  ⟨⟨_, rfl⟩, ⟨_, rfl⟩, by decide, by decide⟩

/-- DecodeOfEncode and EncodeOfDecode: the last round of an encoding. -/
theorem witness_encoding : (Instr.round 6).wellFormed = true ∧ decode 0x607 = .ok (.round 6) := by decide

/-- RejectedWordsAreTheReservedOnes and IssueChecksInOrder: one word for each clause, where the clauses meet: the
first reserved opcode, the first RSV bit, RND = 7 and RND = 6 on the first and last command with a round, RND = 1 on
the neighbours, and the words of NOP, INV_MDS_MUL, ADD_ARK1 6, ROUND 0 and CLEAR. -/
theorem witness_issue :
    0x0B ≤ (0x0B : Word).toNat % 256 ∧ (0x800 : Word).toNat / 2048 ≠ 0 ∧
    [0x705, 0x707].all (fun w : Word => decide (w.toNat % 256 < 0x0B ∧ w.toNat / 2048 = 0 ∧
      (0x05 ≤ w.toNat % 256 ∧ w.toNat % 256 ≤ 0x07) ∧ w.toNat / 256 % 8 = 7)) = true ∧
    [0x104, 0x108, 0x70A].all (fun w : Word => decide (w.toNat % 256 < 0x0B ∧ w.toNat / 2048 = 0 ∧
      ¬ (0x05 ≤ w.toNat % 256 ∧ w.toNat % 256 ≤ 0x07) ∧ w.toNat / 256 % 8 ≠ 0)) = true ∧
    [0x000, 0x004, 0x605, 0x007, 0x00A].all (fun w : Word => decide (w.toNat % 256 < 0x0B ∧ w.toNat / 2048 = 0 ∧
      (if 0x05 ≤ w.toNat % 256 ∧ w.toNat % 256 ≤ 0x07 then w.toNat / 256 % 8 ≠ 7 else w.toNat / 256 % 8 = 0))) =
      true ∧
    State.reset.busy = false ∧ (running .nop count).busy = true := by decide

/-- WindowMapAndId: the ends of the reserved ranges, a misaligned offset, the last element, and a host address just
past the window. -/
theorem witness_window :
    [0x18, 0x3F, 0xA0, 0xFF, 0x9C, 0x01].all (fun off : BitVec 8 =>
      decide ((0x18 ≤ off.toNat ∧ off.toNat < 0x40) ∨ 0xA0 ≤ off.toNat ∨ off.toNat % 8 ≠ 0)) = true ∧
    (0x98 : BitVec 8).toNat = 0x40 + 8 * (11 : Fin 12).val ∧ Config.base + 256 ≤ Config.base + 256 :=
  ⟨by decide, by decide, le_refl _⟩

/-- ByteLanesAreLittleEndian: the first and the last lane, and byte sequences one too short and one too long. -/
theorem witness_lanes : (0 : Nat) < 8 ∧ (7 : Nat) < 8 ∧ (List.replicate 7 (0 : Byte)).length ≠ 8 ∧
    (List.replicate 9 (0 : Byte)).length ≠ 8 := by decide

/-- HostReadsReturnTheRegister, HostWritesFollowTheRegister: an idle and a busy state, and the values on both sides
of the modulus. -/
theorem witness_host_access : State.reset.busy = false ∧ (running .permute count).busy = true ∧
    Config.P ≤ (0xFFFF_FFFF_0000_0001 : Word).toNat ∧ (0xFFFF_FFFF_0000_0000 : Word).toNat < Config.P ∧
    (0 : Fin 12) ≠ 11 := by decide

/-- ElementWriteLeavesOtherBytes: the bytes on either side of S[0] and of S[11]. -/
theorem witness_element_frame : State.reset.busy = false ∧ (0xFFFF_FFFF_0000_0000 : Word).toNat < Config.P ∧
    (0x3F : BitVec 8).toNat < 0x40 + 8 * (0 : Fin 12).val ∧ 0x40 + 8 * (0 : Fin 12).val + 8 ≤ (0x48 : BitVec 8).toNat ∧
    (0x97 : BitVec 8).toNat < 0x40 + 8 * (11 : Fin 12).val ∧
    0x40 + 8 * (11 : Fin 12).val + 8 ≤ (0xA0 : BitVec 8).toNat := by decide

/-- FirstApplicableErrorIsReported: for each cause an access on which it is the first to apply, and one on which
none applies. -/
theorem witness_errors :
    [(ErrCause.badAccess, running .permute count, (⟨.write, 0x08, 4, 0x0B⟩ : Access)),
      (.badAccess, running .permute count, ⟨.read, 0x9C, 8, 0⟩), (.badAccess, State.reset, ⟨.write, 0x00, 8, 0⟩),
      (.busy, running .permute count, ⟨.write, 0x08, 8, 0x0B⟩),
      (.busy, running .permute count, ⟨.write, 0x98, 8, 0xFFFF_FFFF_0000_0001⟩),
      (.illegalCmd, State.reset, ⟨.write, 0x08, 8, 0x0F07⟩), (.badRound, State.reset, ⟨.write, 0x08, 8, 0x707⟩),
      (.noncanonical, State.reset, ⟨.write, 0x40, 8, 0xFFFF_FFFF_0000_0001⟩)].Forall
      (fun x => x.1.Applies x.2.1 x.2.2 ∧ ∀ c' : ErrCause, c'.rank < x.1.rank → ¬ c'.Applies x.2.1 x.2.2) ∧
    ∀ c : ErrCause, ¬ c.Applies State.reset ⟨.write, 0x40, 8, 0xFFFF_FFFF_0000_0000⟩ := by
  refine ⟨?_, fun c => ?_⟩
  · simp only [List.Forall]
    refine ⟨?_, ?_, ?_, ?_, ?_, ?_, ?_, ?_⟩ <;>
      (refine ⟨by unfold ErrCause.Applies; simp only [Access.ToElement, Access.ToCommand, IllegalWord, BadRoundWord]; decide,
        fun c' => ?_⟩
       cases c' <;> unfold ErrCause.Applies <;>
        simp only [Access.ToElement, Access.ToCommand, IllegalWord, BadRoundWord, ErrCause.rank] <;> decide)
  · cases c <;> unfold ErrCause.Applies <;>
      simp only [Access.ToElement, Access.ToCommand, IllegalWord, BadRoundWord] <;> decide

/-- RejectionRecordsTheFirstErrorOnly: rejected accesses, a read and a write, with ERR = 0 and with ERR = 1. -/
theorem witness_rejection :
    (State.reset.access ⟨.read, 0x18, 8, 0⟩).responses = State.reset.responses ++ [⟨some 0, false⟩] ∧
    State.reset.err = false ∧
    let s : State := { State.reset with err := true, errcode := 3 }
    (s.access ⟨.write, 0x08, 8, 0x707⟩).responses = s.responses ++ [⟨none, false⟩] ∧ s.err = true := by decide

/-- AcknowledgeClearsTheRecord: an idle block with an error recorded, and a command with the last round. -/
theorem witness_acknowledge : let s : State := { State.reset with err := true, errcode := 5 }
    s.err = true ∧ s.busy = false ∧ (Instr.round 6).wellFormed = true := by decide

/-- StepRunsThePendingCommand: the engine's turn by the agenda, and by its end. -/
theorem witness_engine_turn :
    let s : State := { running (.round 6) count with agenda := [.complete, .reset] }
    EngineTurnNext s ∧ EngineTurnNext (running (.round 6) count) ∧ s.pending = some 0x607 ∧
    decode 0x607 = .ok (.round 6) ∧ decode (BitVec.ofNat 64 0x607) = .ok (.round 6) :=
  ⟨.inr ⟨_, rfl⟩, .inl rfl, rfl, rfl, rfl⟩

/-- IdleBlockKeepsItsState. -/
theorem witness_idle : let s : State := { State.reset with agenda := [.complete, .reset] }
    s.pending = none ∧ EngineTurnNext s ∧ EngineTurnNext State.reset :=
  ⟨rfl, .inr ⟨_, rfl⟩, .inl rfl⟩

/-- ResetGivesTheResetTable: a reset while a command runs, with an access still to come. -/
theorem witness_reset :
    { running .permute count with agenda := [.reset, rd .id] }.agenda = Event.reset :: [rd .id] := rfl

/-- The states of the invariant's witnesses: any registers, running a command. -/
theorem running_inv {i : Instr} {S : Vec} (hS : CanonicalVec S) (hi : decode (encode i) = .ok i) :
    (running i S).Inv where
  canonical := hS
  cmdAccepted := ⟨i, hi⟩
  pendingIsCmd v h := by cases h; rfl
  busyIffPending := rfl
  notBusyAndDone h := by cases h.2
  errRecord := ⟨fun _ => rfl, fun _ => rfl⟩
  errcodeAssigned := Nat.zero_le 5

/-- EveryStepKeepsTheInvariant, StepsNeverStop, AcceptedCommandsComplete: a running block meets the invariant and
takes a step. -/
theorem witness_invariant : (running .clear top).Inv ∧ ∃ t, step (running .clear top) = .next t :=
  ⟨running_inv witness_canonical_top rfl, _, rfl⟩

/-- CommandScriptRunsToCompletion: the script of the last round, with no busy poll and with two. -/
theorem witness_script : ∀ polls ∈ [0, 2],
    let s : State := { State.reset with agenda := runCmd (.round 6) polls ++ [.reset] }
    s.busy = false ∧ s.pending = none ∧ (Instr.round 6).wellFormed = true ∧
      s.agenda = runCmd (.round 6) polls ++ [.reset] := by decide

/-- HalfMacrosRunARound: the last round, with different polls in each wait. -/
theorem witness_half_macros :
    let s : State := { State.reset with agenda := half1 6 (fun k => k.val) ++ half2 6 (fun _ => 2) ++ [.reset] }
    s.busy = false ∧ s.pending = none ∧ (6 : BitVec 3).toNat < 7 ∧
      s.agenda = half1 6 (fun k => k.val) ++ half2 6 (fun _ => 2) ++ [.reset] :=
  ⟨rfl, rfl, by decide, rfl⟩

/-- StateRegistersChangeOnlyByTheirRules: a completion, an element write at the end of the file, and a reset change
S. -/
theorem witness_S_changes :
    (∃ t, step (running .clear top) = .next t ∧ t.S ≠ (running .clear top).S) ∧
    (let s : State := { State.reset with agenda := [wr (.s 11) 0xFFFF_FFFF_0000_0000] }
      ∃ t, step s = .next t ∧ t.S ≠ s.S) ∧
    (let s : State := { running .permute count with agenda := [.reset] }
      ∃ t, step s = .next t ∧ t.S ≠ s.S) :=
  ⟨⟨_, rfl, by decide⟩, ⟨_, rfl, by decide⟩, ⟨_, rfl, by decide⟩⟩

/-- OnlyAcceptanceStartsACommand: a step on which BUSY rises and CMD changes, and a reset that changes CMD. -/
theorem witness_acceptance :
    (let s : State := { State.reset with agenda := [wr .cmd 0x607] }
      ∃ t, step s = .next t ∧ s.busy = false ∧ t.busy = true ∧ t.cmd ≠ s.cmd) ∧
    (let s : State := { running .permute count with agenda := [.reset] }
      ∃ t, step s = .next t ∧ t.cmd ≠ s.cmd) :=
  ⟨⟨_, rfl, by decide, by decide, by decide⟩, ⟨_, rfl, by decide⟩⟩

/-- RunningCommandIsUndisturbed: a poll while a command runs. -/
theorem witness_running :
    let s : State := { running .permute count with agenda := [rd .status] }
    ∃ t, step s = .next t ∧ s.busy = true ∧ t.busy = true ∧ s.done = false :=
  ⟨_, rfl, by decide, by decide, by decide⟩

/-- OneResponseToEachAccess: an access, a completion and a reset each take a step. -/
theorem witness_one_event :
    (∃ t, step { State.reset with agenda := [rd .id] } = .next t) ∧
    (∃ t, step { State.reset with agenda := [.complete] } = .next t) ∧
    ∃ t, step { State.reset with agenda := [.reset] } = .next t :=
  ⟨⟨_, rfl⟩, ⟨_, rfl⟩, ⟨_, rfl⟩⟩

/-- HiddenStateIsNeverObserved: two states that differ in the hidden engine state, with a step, and two whose step
faults. -/
theorem witness_hidden :
    let s := running .clear top
    let s' : State := { s with hidden := { s.hidden with rc := 6 } }
    SameButHidden s s' ∧ s.hidden ≠ s'.hidden ∧ (∃ t, step s = .next t) ∧
    ∃ f, step { s with pending := some 0x0B } = .fault f :=
  ⟨⟨rfl, rfl, rfl, rfl, rfl, rfl, rfl, rfl, rfl⟩, by decide, ⟨_, rfl⟩, _, rfl⟩

end Sys2Proof.Machine.Tests
end

section
/-! The register window seen by the host: what a read and a write of each register answer and leave behind
(20_memory.md R44, R45). -/

namespace Sys2Proof.Machine

/-! ### Registers -/

/-- The fields of R27 packed into the one word that R44 gives. -/
theorem idWord_eq : idWord = 0x0000_0108_0404_070C := by decide

/-- The two write-1-to-clear bits, in the arithmetic of the statements. -/
theorem getLsbD_one_iff (v : Word) : v.getLsbD 1 = true ↔ v.toNat / 2 % 2 = 1 := by
  simp [BitVec.getLsbD, Nat.testBit_eq_decide_div_mod_eq]

theorem getLsbD_two_iff (v : Word) : v.getLsbD 2 = true ↔ v.toNat / 4 % 2 = 1 := by
  simp [BitVec.getLsbD, Nat.testBit_eq_decide_div_mod_eq]

/-- Write-1-to-clear on the written value as an integer (R45). -/
theorem writeStatus_eq (s : State) (v : Word) : s.writeStatus v =
    { s with done := if v.toNat / 2 % 2 = 1 then false else s.done
             err := if v.toNat / 4 % 2 = 1 then false else s.err
             errcode := if v.toNat / 4 % 2 = 1 then 0 else s.errcode } := by
  have hdone : (s.done && !v.getLsbD 1) = if v.toNat / 2 % 2 = 1 then false else s.done := by
    simp only [← getLsbD_one_iff]
    cases v.getLsbD 1 <;> simp
  have herr : (s.err && !v.getLsbD 2) = if v.toNat / 4 % 2 = 1 then false else s.err := by
    simp only [← getLsbD_two_iff]
    cases v.getLsbD 2 <;> simp
  simp only [State.writeStatus, hdone, herr, getLsbD_two_iff]

/-! ### Element accesses: one rule for each branch -/

theorem readReg_s_busy {s : State} (h : s.busy = true) (i : Fin 12) :
    s.readReg (.s i) = s.raiseErr .read .busy := if_pos h

theorem readReg_s_idle {s : State} (h : s.busy = false) (i : Fin 12) :
    s.readReg (.s i) = s.okayRead s.S[i] := by
  simp [State.readReg, h]

theorem writeReg_s_busy {s : State} (h : s.busy = true) (i : Fin 12) (v : Word) :
    s.writeReg v (.s i) = s.raiseErr .write .busy := if_pos h

theorem writeReg_s_noncanonical {s : State} (h : s.busy = false) (i : Fin 12) {v : Word}
    (hv : Config.P ≤ v.toNat) : s.writeReg v (.s i) = s.raiseErr .write .noncanonical := by
  simp [State.writeReg, h, hv]

theorem writeReg_s_store {s : State} (h : s.busy = false) (i : Fin 12) {v : Word}
    (hv : v.toNat < Config.P) : s.writeReg v (.s i) = (s.setS i v).okayWrite := by
  simp [State.writeReg, h, Nat.not_le_of_lt hv]

/-- A write to S[i] changes only S[i] (R45). -/
theorem setS_S_same (s : State) (i : Fin 12) (v : Word) : (s.setS i v).S[i] = v := by simp

theorem setS_S_of_ne (s : State) {i j : Fin 12} (v : Word) (h : j ≠ i) :
    (s.setS i v).S[j] = s.S[j] := by
  have hval : i.val ≠ j.val := fun e => h (Fin.ext e.symm)
  simp [hval]

/-! ### The obligations -/

/-- Settles O40: each legal read is its register's own rule, and an element read has one branch for each value
of BUSY. -/
theorem hostReadsReturnTheRegister : Obligations.HostReadsReturnTheRegister := by
  intro s w
  refine ⟨?id, access_read s .cmd w, access_read s .status w, fun i => ⟨fun h => ?idle, fun h => ?busy⟩⟩
  case id =>
    rw [← idWord_eq]
    exact access_read s .id w
  case idle => exact (access_read s (.s i) w).trans (readReg_s_idle h i)
  case busy => exact (access_read s (.s i) w).trans (readReg_s_busy h i)

/-- Settles O41: each write is its register's own rule; STATUS clears by `writeStatus_eq`, and an element write
has one branch for BUSY, one for a value of at least p and one that stores. -/
theorem hostWritesFollowTheRegister : Obligations.HostWritesFollowTheRegister := by
  intro s v
  refine ⟨access_write s .cmd v, ⟨⟨none, true⟩, rfl, ?status⟩, fun i => ?element⟩
  case status =>
    have hwrite : s.access ⟨.write, 0x10, 8, v⟩ = (s.writeStatus v).okayWrite := access_write s .status v
    rw [hwrite, writeStatus_eq]
    rfl
  case element =>
    have hwrite : s.access ⟨.write, BitVec.ofNat 8 (0x40 + 8 * i.val), 8, v⟩ = s.writeReg v (.s i) :=
      access_write s (.s i) v
    dsimp only
    rw [hwrite]
    refine ⟨fun h => writeReg_s_busy h i v, fun h hv => writeReg_s_noncanonical h i hv, fun h hv => ?_⟩
    rw [writeReg_s_store h i hv]
    exact ⟨setS_S_same s i v, fun j hj => setS_S_of_ne s v hj, ⟨none, true⟩, rfl, rfl⟩

end Sys2Proof.Machine
end

section
/-! The command word: which words the decoder rejects and with which code, on the word's fields as integers
(30_encoding.md R63, R64), and what a write to CMD therefore does (R65). -/

namespace Sys2Proof.Machine

/-! ### The fields of a word and the rows of the opcode map as integers -/

theorem rsvOf_eq_zero_iff (v : Word) : rsvOf v = 0 ↔ v.toNat / 2048 = 0 := by
  rw [← BitVec.toNat_inj, rsvOf_toNat, BitVec.ofNat_eq_ofNat, BitVec.toNat_zero]

theorem rndOf_eq_iff (v : Word) (r : BitVec 3) : rndOf v = r ↔ v.toNat / 256 % 8 = r.toNat := by
  rw [← BitVec.toNat_inj, rndOf_toNat]

/-- The rows of R62 by the opcode as an integer: a round operand on 5, 6 and 7, none on the other assigned
opcodes, and no row from 0x0B on. -/
theorem opcodeRow_cases (op : BitVec 8) :
    (0x0B ≤ op.toNat ∧ opcodeRow op = none) ∨
    ((0x05 ≤ op.toNat ∧ op.toNat ≤ 0x07) ∧ ∃ f, opcodeRow op = some (.withRound f)) ∨
    (op.toNat < 0x0B ∧ ¬ (0x05 ≤ op.toNat ∧ op.toNat ≤ 0x07) ∧ ∃ i, opcodeRow op = some (.plain i)) := by
  unfold opcodeRow
  split
  case h_12 =>
    -- The default row: the opcode is none of the eleven before it.
    simp_all
    omega
  all_goals simp [*]

/-! ### The rejections of the decoder, one rule for each branch -/

theorem decode_reserved {v : Word} (ho : opcodeRow (opcodeOf v) = none) : decode v = .error .illegalCmd := by
  simp [decode, ho]

theorem decode_rsv_ne_zero {v : Word} (hs : rsvOf v ≠ 0) : decode v = .error .illegalCmd := by
  cases ho : opcodeRow (opcodeOf v) with
  | none => exact decode_reserved ho
  | some row => simp only [decode, ho, if_pos hs]

theorem decode_withRound_seven {v : Word} {f : BitVec 3 → Instr}
    (ho : opcodeRow (opcodeOf v) = some (.withRound f)) (hs : rsvOf v = 0) (hr : rndOf v = 7) :
    decode v = .error .badRound := by
  simp [decode, ho, hs, hr]

theorem decode_plain_rnd_ne_zero {v : Word} {i : Instr} (ho : opcodeRow (opcodeOf v) = some (.plain i))
    (hs : rsvOf v = 0) (hr : rndOf v ≠ 0) : decode v = .error .illegalCmd := by
  simpa [decode, ho, hs] using hr

/-! ### The three answers of the decoder -/

/-- Every word is illegal, or carries a bad round, or selects a command, and the decoder answers accordingly
(R64). -/
theorem decode_cases (v : Word) :
    (IllegalWord v.toNat ∧ decode v = .error .illegalCmd) ∨
    (¬ IllegalWord v.toNat ∧ BadRoundWord v.toNat ∧ decode v = .error .badRound) ∨
    (¬ IllegalWord v.toNat ∧ ¬ BadRoundWord v.toNat ∧ ∃ i, decode v = .ok i) := by
  have hop := opcodeRow_cases (opcodeOf v)
  rw [opcodeOf_toNat] at hop
  unfold IllegalWord BadRoundWord
  by_cases hrsv : v.toNat / 2048 = 0
  case neg => exact .inl ⟨.inr (.inl hrsv), decode_rsv_ne_zero (mt (rsvOf_eq_zero_iff v).mp hrsv)⟩
  have hs := (rsvOf_eq_zero_iff v).mpr hrsv
  obtain ⟨hge, ho⟩ | ⟨hround, f, ho⟩ | ⟨hlt, hplain, i, ho⟩ := hop
  · exact .inl ⟨.inl hge, decode_reserved ho⟩
  · by_cases h7 : v.toNat / 256 % 8 = 7
    · exact .inr (.inl ⟨by omega, by omega, decode_withRound_seven ho hs ((rndOf_eq_iff v 7).mpr h7)⟩)
    · exact .inr (.inr ⟨by omega, by omega, _, decode_withRound ho hs (mt (rndOf_eq_iff v 7).mp h7)⟩)
  · by_cases h0 : v.toNat / 256 % 8 = 0
    · exact .inr (.inr ⟨by omega, by omega, i, decode_plain ho hs ((rndOf_eq_iff v 0).mpr h0)⟩)
    · exact .inl ⟨.inr (.inr ⟨hplain, h0⟩), decode_plain_rnd_ne_zero ho hs (mt (rndOf_eq_iff v 0).mp h0)⟩

theorem decode_illegal_iff (v : Word) : decode v = .error .illegalCmd ↔ IllegalWord v.toNat := by
  obtain ⟨hI, hd⟩ | ⟨hI, -, hd⟩ | ⟨hI, -, i, hd⟩ := decode_cases v <;> simp [hI, hd]

theorem decode_badRound_iff (v : Word) :
    decode v = .error .badRound ↔ ¬ IllegalWord v.toNat ∧ BadRoundWord v.toNat := by
  obtain ⟨hI, hd⟩ | ⟨hI, hB, hd⟩ | ⟨hI, hB, i, hd⟩ := decode_cases v <;> simp [*]

theorem decode_ok_iff (v : Word) :
    (∃ i, decode v = .ok i) ↔ ¬ IllegalWord v.toNat ∧ ¬ BadRoundWord v.toNat := by
  obtain ⟨hI, hd⟩ | ⟨hI, hB, hd⟩ | ⟨hI, hB, i, hd⟩ := decode_cases v <;> simp [*]

/-- The decoder is a function, so a word selects at most one command. -/
theorem decode_existsUnique_iff (v : Word) : (∃! i, decode v = .ok i) ↔ ∃ i, decode v = .ok i :=
  ⟨ExistsUnique.exists, fun ⟨i, hi⟩ => ⟨i, hi, fun _ hj => Except.ok.inj (hj.symm.trans hi)⟩⟩

/-! ### The obligations -/

/-- Settles O34: the three answers of the decoder, each with its own words. -/
theorem rejectedWordsAreTheReservedOnes : Obligations.RejectedWordsAreTheReservedOnes := fun v =>
  ⟨decode_illegal_iff v, decode_badRound_iff v, (decode_existsUnique_iff v).trans (decode_ok_iff v)⟩

/-- Settles O36: a write to CMD is `issue`, whose first check is BUSY and whose others are the decoder's. -/
theorem issueChecksInOrder : Obligations.IssueChecksInOrder := by
  intro s w
  have hissue : s.access ⟨.write, 0x08, 8, w⟩ = s.issue w := access_write s .cmd w
  have hillegal (hb : s.busy = false) (h : IllegalWord w.toNat) : s.issue w = s.raiseErr .write .illegalCmd :=
    issue_reject hb ((decode_illegal_iff w).mpr h)
  dsimp only
  rw [hissue]
  refine ⟨fun hb => issue_busy hb w, fun hb h => hillegal hb (h.imp_right .inl), fun hb hop hrsv =>
    ⟨fun hround hrnd => ?badRound, fun hplain hrnd => hillegal hb (.inr (.inr ⟨hplain, hrnd⟩)), fun hrnd => ?accept⟩⟩
  case badRound =>
    have hbad : ¬ IllegalWord w.toNat ∧ BadRoundWord w.toNat := by
      unfold IllegalWord BadRoundWord
      omega
    exact issue_reject hb ((decode_badRound_iff w).mpr hbad)
  case accept =>
    have hlegal : ¬ IllegalWord w.toNat ∧ ¬ BadRoundWord w.toNat := by
      unfold IllegalWord BadRoundWord
      split at hrnd <;> omega
    obtain ⟨i, hi⟩ := (decode_ok_iff w).mpr hlegal
    exact ⟨⟨none, true⟩, rfl, issue_accept hb hi⟩

end Sys2Proof.Machine
end

section
/-! The field operations on words (40_field_arithmetic.md R81, R83, R84): the laws of a commutative ring, carried
over from ZMod p by `canonical_ext`. A law whose two sides are both results of an operation holds on every word. -/

namespace Sys2Proof.Machine

theorem one_canonical : Canonical 1 := by
  show 1 < Config.P
  norm_num

theorem fadd_comm (a b : Word) : fadd a b = fadd b a :=
  canonical_ext (fadd_canonical _ _) (fadd_canonical _ _) (by simp [add_comm])

theorem fadd_assoc (a b c : Word) : fadd (fadd a b) c = fadd a (fadd b c) :=
  canonical_ext (fadd_canonical _ _) (fadd_canonical _ _) (by simp [add_assoc])

theorem fmul_comm (a b : Word) : fmul a b = fmul b a :=
  canonical_ext (fmul_canonical _ _) (fmul_canonical _ _) (by simp [mul_comm])

theorem fmul_assoc (a b c : Word) : fmul (fmul a b) c = fmul a (fmul b c) :=
  canonical_ext (fmul_canonical _ _) (fmul_canonical _ _) (by simp [mul_assoc])

theorem fmul_fadd (a b c : Word) : fmul a (fadd b c) = fadd (fmul a b) (fmul a c) :=
  canonical_ext (fmul_canonical _ _) (fadd_canonical _ _) (by simp [mul_add])

theorem fadd_zero {a : Word} (ha : Canonical a) : fadd a 0 = a :=
  canonical_ext (fadd_canonical _ _) ha (by simp)

theorem fmul_zero (a : Word) : fmul a 0 = 0 :=
  canonical_ext (fmul_canonical _ _) zero_canonical (by simp)

theorem fmul_one {a : Word} (ha : Canonical a) : fmul a 1 = a :=
  canonical_ext (fmul_canonical _ _) ha (by simp)

/-- Settles O1: the exact sum is `fadd_toNat`, and the corner cases are single evaluations. -/
theorem fieldAdditionIsExact : Obligations.FieldAdditionIsExact :=
  ⟨fadd_toNat, fun _ => fadd_zero, by decide, by decide, by decide⟩

/-- Settles O3: the exact product is `fmul_toNat`, and `fsq` is defined by `fmul`. -/
theorem fieldMultiplicationIsExact : Obligations.FieldMultiplicationIsExact :=
  ⟨fmul_toNat, fmul_zero, fun _ => fmul_one, by decide, by decide, by decide, by decide, fun _ => rfl, by decide⟩

end Sys2Proof.Machine
end

section
/-! The field of canonical words (40_field_arithmetic.md R87): inverses, and the seventh power with its inverse, the
power e. Both rest on p being prime. -/

namespace Sys2Proof.Machine

/-! ### Inverses -/

theorem felt_ne_zero {a : Word} (ha : Canonical a) (h0 : a ≠ 0) : felt a ≠ 0 :=
  fun h => h0 (canonical_ext ha zero_canonical (h.trans felt_zero.symm))

theorem exists_fmul_eq_one {a : Word} (ha : Canonical a) (h0 : a ≠ 0) : ∃ b, Canonical b ∧ fmul a b = 1 := by
  have : Fact Config.P.Prime := ⟨modulus_prime⟩
  refine ⟨Config.canonicalWord (felt a)⁻¹, canonicalWord_canonical _,
    canonical_ext (fmul_canonical _ _) one_canonical ?_⟩
  rw [felt_fmul, felt_canonicalWord, mul_inv_cancel₀ (felt_ne_zero ha h0)]
  exact felt_one.symm

/-! ### Powers -/

theorem fpow_canonical (a : Word) : ∀ k : Nat, Canonical (fpow a k)
  | 0 => one_canonical
  | _ + 1 => fmul_canonical _ _

/-- R87 (c): the exponent e inverts 7 modulo p − 1. -/
theorem seven_mul_invAlpha : 7 * Config.invAlpha = 4 * (Config.P - 1) + 1 := by norm_num [Config.invAlpha]

/-- Fermat's little theorem on the exponent 7e. -/
theorem pow_seven_mul_invAlpha (x : ZMod Config.P) : x ^ (7 * Config.invAlpha) = x := by
  have : Fact Config.P.Prime := ⟨modulus_prime⟩
  rw [seven_mul_invAlpha, pow_succ, mul_comm 4, pow_mul]
  by_cases hx : x = 0
  · rw [hx, mul_zero]
  · rw [ZMod.pow_card_sub_one_eq_one hx, one_pow, one_mul]

theorem pow_seven_eq_iff (x y : ZMod Config.P) : x ^ 7 = y ↔ x = y ^ Config.invAlpha := by
  constructor <;> intro h
  · rw [← h, ← pow_mul, pow_seven_mul_invAlpha]
  · rw [h, ← pow_mul, mul_comm, pow_seven_mul_invAlpha]

/-- On canonical words the seventh power and the power e undo each other. -/
theorem fpow_seven_eq_iff {x y : Word} (hx : Canonical x) (hy : Canonical y) :
    fpow x 7 = y ↔ x = fpow y Config.invAlpha := by
  have hfelt := pow_seven_eq_iff (felt x) (felt y)
  rw [← felt_fpow, ← felt_fpow] at hfelt
  exact ⟨fun h => canonical_ext hx (fpow_canonical _ _) (hfelt.mp (congrArg felt h)),
    fun h => canonical_ext (fpow_canonical _ _) hy (hfelt.mpr (congrArg felt h))⟩

theorem existsUnique_fpow_seven {y : Word} (hy : Canonical y) : ∃! x : Word, Canonical x ∧ fpow x 7 = y :=
  have he : Canonical (fpow y Config.invAlpha) := fpow_canonical _ _
  ⟨fpow y Config.invAlpha, ⟨he, (fpow_seven_eq_iff he hy).mpr rfl⟩, fun _ ⟨hx, h⟩ => (fpow_seven_eq_iff hx hy).mp h⟩

theorem fpow_seven_mul_invAlpha {x : Word} (hx : Canonical x) : fpow x (7 * Config.invAlpha) = x :=
  canonical_ext (fpow_canonical _ _) hx (by rw [felt_fpow, pow_seven_mul_invAlpha])

/-! ### The obligation -/

/-- Settles O4: the ring laws hold on every word, inverses and the seventh power come from p being prime, and the
facts (a) and (b) are numerals. -/
theorem canonicalWordsAreAField : Obligations.CanonicalWordsAreAField := by
  refine ⟨fun a b c _ _ _ => ⟨fadd_comm a b, fadd_assoc a b c, fmul_comm a b, fmul_assoc a b c, fmul_fadd a b c⟩,
    fun _ => exists_fmul_eq_one, ⟨?factors, ?coprime⟩, ?reductions, seven_mul_invAlpha,
    fun _ => existsUnique_fpow_seven, fun _ => fpow_seven_mul_invAlpha⟩
  case factors => norm_num
  case coprime => norm_num
  case reductions => norm_num

end Sys2Proof.Machine
end

section
/-! The S-boxes as powers of the field (41_sbox_engine.md R100, R102 to R104), and that they undo each other (R107):
on canonical words the seventh power and the power e are inverse, `fpow_seven_eq_iff`. -/

namespace Sys2Proof.Machine

/-! ### The chain's pieces in ZMod p -/

@[simp] theorem felt_fsqTimes (b : Word) : ∀ n : Nat, felt (fsqTimes b n) = felt b ^ 2 ^ n
  | 0 => by rw [fsqTimes, pow_zero, pow_one]
  | n + 1 => by rw [fsqTimes, felt_fsq, felt_fsqTimes b n, ← pow_mul, pow_succ]

@[simp] theorem felt_expAcc (b t : Word) (n : Nat) : felt (expAcc b t n) = felt b ^ 2 ^ n * felt t := by
  rw [expAcc, felt_fmul, felt_fsqTimes]

theorem felt_sbox (x : Word) : felt (sbox x) = felt x ^ 7 := by
  simp only [sbox, felt_fmul, felt_fsq]
  ring

/-- The exponents of R103 add up to e = 2 · 2 · (2 · e₇ + e₆) + 7, where e₆ and e₇ are those of t6 and t7. -/
theorem felt_invSboxChain (x : Word) : felt (invSboxChain x) = felt x ^ Config.invAlpha := by
  simp only [invSboxChain, felt_fmul, felt_fsq, felt_expAcc, ← pow_mul, ← pow_add, ← pow_succ]
  norm_num [Config.invAlpha]

/-! ### The functions are powers, and inverse to each other -/

theorem sbox_eq_fpow (x : Word) : sbox x = fpow x 7 :=
  canonical_ext (sbox_canonical _) (fpow_canonical _ _) (by rw [felt_sbox, felt_fpow])

theorem invSboxChain_eq_invSbox (x : Word) : invSboxChain x = invSbox x :=
  canonical_ext (invSboxChain_canonical _) (fpow_canonical _ _) (by rw [felt_invSboxChain, invSbox, felt_fpow])

/-- R107 as an equivalence: y is the S-box of x exactly when x is the inverse S-box of y. -/
theorem sbox_eq_iff {x y : Word} (hx : Canonical x) (hy : Canonical y) : sbox x = y ↔ x = invSbox y := by
  rw [sbox_eq_fpow, invSbox]
  exact fpow_seven_eq_iff hx hy

theorem invSbox_sbox {x : Word} (hx : Canonical x) : invSbox (sbox x) = x :=
  ((sbox_eq_iff hx (sbox_canonical x)).mp rfl).symm

theorem sbox_invSbox {x : Word} (hx : Canonical x) : sbox (invSbox x) = x :=
  (sbox_eq_iff (fpow_canonical _ _) hx).mpr rfl

theorem invSboxVec_sboxVec {S : Vec} (hS : CanonicalVec S) : invSboxVec (sboxVec S) = S :=
  vec_ext fun i => by rw [invSboxVec_get, sboxVec_get, invSboxChain_eq_invSbox, invSbox_sbox (hS i)]

theorem sboxVec_invSboxVec {S : Vec} (hS : CanonicalVec S) : sboxVec (invSboxVec S) = S :=
  vec_ext fun i => by rw [sboxVec_get, invSboxVec_get, invSboxChain_eq_invSbox, sbox_invSbox (hS i)]

/-! ### The commands -/

theorem exec_sbox (s : State) : exec .sbox s = .next (s.finish (sboxVec s.S)) := rfl

theorem exec_invSbox (s : State) : exec .invSbox s = .next (s.useChain.finish (invSboxVec s.S)) := rfl

/-- Settles O9: on canonical words the seventh power and the power e are inverse (`sbox_eq_iff`), and the two commands
apply them to every lane. -/
theorem sboxesAreInverse : Obligations.SboxesAreInverse :=
  ⟨fun x hx => ⟨invSbox_sbox hx, sbox_invSbox hx, invSboxChain_eq_invSbox x⟩,
    fun s hS => ⟨⟨_, _, exec_sbox s, exec_invSbox _, invSboxVec_sboxVec hS⟩,
      ⟨_, _, exec_invSbox s, exec_sbox _, sboxVec_invSboxVec hS⟩⟩⟩

end Sys2Proof.Machine
end

section
/-! The diffusion as linear algebra over ZMod p (42_linear_diffusion.md R123, R124): on words read as field elements,
`matvec` is the matrix-vector product, so it is linear, and the configuration law of 10_state.md R31 says that the two
tables are inverse matrices, on either side. -/

namespace Sys2Proof.Machine

/-! ### Vectors and tables over ZMod p -/

/-- The field elements that a vector's words stand for. -/
def feltVec (S : Vec) : Fin 12 → ZMod Config.P := fun i => felt S[i]

/-- The matrix over the field that a table's words stand for. -/
def feltMatrix (M : Fin 12 → Fin 12 → Word) : Matrix (Fin 12) (Fin 12) (ZMod Config.P) :=
  Matrix.of fun i j => felt (M i j)

theorem feltVec_inj {v w : Vec} (hv : CanonicalVec v) (hw : CanonicalVec w) : feltVec v = feltVec w ↔ v = w :=
  ⟨fun h => vec_canonical_ext hv hw (congrFun h), congrArg feltVec⟩

theorem ofFn_canonical {f : Fin 12 → Word} (h : ∀ i, Canonical (f i)) : CanonicalVec (Vector.ofFn f) :=
  fun i => by simpa using h i

@[simp] theorem feltVec_ofFn (f : Fin 12 → Word) : feltVec (Vector.ofFn f) = fun i => felt (f i) := by
  funext i
  simp [feltVec]

@[simp] theorem feltVec_matvec (M : Fin 12 → Fin 12 → Word) (S : Vec) :
    feltVec (matvec M S) = (feltMatrix M).mulVec (feltVec S) :=
  funext (felt_matvec M S)

theorem feltVec_ofFn_fadd (S T : Vec) :
    feltVec (Vector.ofFn fun i => fadd S[i] T[i]) = feltVec S + feltVec T := by
  rw [feltVec_ofFn]
  exact funext fun i => felt_fadd S[i] T[i]

theorem feltVec_ofFn_fmul (c : Word) (S : Vec) :
    feltVec (Vector.ofFn fun i => fmul c S[i]) = felt c • feltVec S := by
  rw [feltVec_ofFn]
  exact funext fun i => felt_fmul c S[i]

/-! ### Linearity -/

theorem matvec_fadd (M : Fin 12 → Fin 12 → Word) (S T : Vec) :
    matvec M (Vector.ofFn fun i => fadd S[i] T[i]) =
      Vector.ofFn fun i => fadd (matvec M S)[i] (matvec M T)[i] := by
  rw [← feltVec_inj (matvec_canonical _ _) (ofFn_canonical fun _ => fadd_canonical _ _)]
  simp only [feltVec_matvec, feltVec_ofFn_fadd, Matrix.mulVec_add]

theorem matvec_fmul (M : Fin 12 → Fin 12 → Word) (c : Word) (S : Vec) :
    matvec M (Vector.ofFn fun i => fmul c S[i]) = Vector.ofFn fun i => fmul c (matvec M S)[i] := by
  rw [← feltVec_inj (matvec_canonical _ _) (ofFn_canonical fun _ => fmul_canonical _ _)]
  simp only [feltVec_matvec, feltVec_ofFn_fmul, Matrix.mulVec_smul]

/-- Settles O13: over ZMod p the product is multiplication by a matrix, and both sides are canonical. -/
theorem diffusionIsLinear : Obligations.DiffusionIsLinear := ⟨matvec_fadd, matvec_fmul⟩

/-! ### The configuration law -/

/-- One entry of the identity matrix, as the law writes it on integers and as an element of ZMod p. -/
theorem mod_eq_ite_iff (n : Nat) (c : Prop) [Decidable c] :
    n % Config.P = (if c then 1 else 0) ↔ (n : ZMod Config.P) = if c then 1 else 0 := by
  have hsmall : (if c then 1 else 0) % Config.P = if c then 1 else 0 := by split <;> norm_num
  have hcast : (if c then 1 else 0 : ZMod Config.P) = ((if c then 1 else 0 : Nat) : ZMod Config.P) := by simp
  rw [hcast, ZMod.natCast_eq_natCast_iff', hsmall]

theorem law_iff (R : Config.Rom) : R.Law ↔ feltMatrix R.invMds * feltMatrix R.mds = 1 := by
  have hentry (i k : Fin 12) : (feltMatrix R.invMds * feltMatrix R.mds) i k =
      ((∑ j : Fin 12, (R.invMds i j).toNat * (R.mds j k).toNat : Nat) : ZMod Config.P) := by
    simp [Matrix.mul_apply, feltMatrix, felt]
  simp only [Config.Rom.Law, mod_eq_ite_iff, ← hentry, ← Matrix.ext_iff, Matrix.one_apply]

/-- The block's tables are a unit of the matrix ring and its inverse. -/
theorem rom_law : Config.rom.Law := by
  have hmds : feltMatrix Config.rom.mds = Config.diffusion.val := by
    ext i j
    exact felt_canonicalWord _
  have hinv : feltMatrix Config.rom.invMds = Config.diffusion.inv := by
    ext i j
    exact felt_canonicalWord _
  rw [law_iff, hmds, hinv]
  exact Config.diffusion.inv_val

/-! ### The two products and the two commands undo each other -/

theorem matvec_matvec_of_mul_eq_one {A B : Fin 12 → Fin 12 → Word} (h : feltMatrix A * feltMatrix B = 1) {S : Vec}
    (hS : CanonicalVec S) : matvec A (matvec B S) = S := by
  rw [← feltVec_inj (matvec_canonical _ _) hS]
  simp only [feltVec_matvec, Matrix.mulVec_mulVec, h, Matrix.one_mulVec]

theorem matvec_invMds_mds {R : Config.Rom} (hR : R.Law) {S : Vec} (hS : CanonicalVec S) :
    matvec R.invMds (matvec R.mds S) = S :=
  matvec_matvec_of_mul_eq_one ((law_iff R).mp hR) hS

/-- The law names one side only; a left inverse of a square matrix is a right inverse. -/
theorem matvec_mds_invMds {R : Config.Rom} (hR : R.Law) {S : Vec} (hS : CanonicalVec S) :
    matvec R.mds (matvec R.invMds S) = S :=
  matvec_matvec_of_mul_eq_one (mul_eq_one_comm.mp ((law_iff R).mp hR)) hS

theorem exec_mdsMul (s : State) : exec .mdsMul s = .next (s.finish (matvec Config.rom.mds s.S)) := rfl

theorem exec_invMdsMul (s : State) : exec .invMdsMul s = .next (s.finish (matvec Config.rom.invMds s.S)) := rfl

/-- Settles O15: under a lawful table the two matrices are inverse on either side, and the block's table is lawful. -/
theorem diffusionsAreInverse : Obligations.DiffusionsAreInverse :=
  ⟨fun _ _ hR hS => ⟨matvec_invMds_mds hR hS, matvec_mds_invMds hR hS⟩,
    fun s hS => ⟨⟨_, _, exec_mdsMul s, exec_invMdsMul _, matvec_invMds_mds rom_law hS⟩,
      ⟨_, _, exec_invMdsMul s, exec_mdsMul _, matvec_mds_invMds rom_law hS⟩⟩⟩

end Sys2Proof.Machine
end

section
/-! The round and the permutation (43_permutation_round.md R147, R148, R150). A round is its first three steps and then
its last three, and each of the last three is undone by its own inverse on canonical vectors: that is the round-check
relation. -/

namespace Sys2Proof.Machine

/-! ### Steps and their inverses -/

theorem unarkVec_arkVec (T : Fin 7 → Fin 12 → Word) (r : Fin 7) {S : Vec} (hS : CanonicalVec S) :
    unarkVec T r (arkVec T r S) = S :=
  vec_canonical_ext (unarkVec_canonical _ _ _) hS fun i => by
    rw [unarkVec_get, arkVec_get, felt_fsub, felt_fadd, add_sub_cancel_right]

theorem arkVec_unarkVec (T : Fin 7 → Fin 12 → Word) (r : Fin 7) {N : Vec} (hN : CanonicalVec N) :
    arkVec T r (unarkVec T r N) = N :=
  vec_canonical_ext (arkVec_canonical _ _ _) hN fun i => by
    rw [arkVec_get, unarkVec_get, felt_fadd, felt_fsub, sub_add_cancel]

/-- A step moves across an equation as its inverse. -/
theorem eq_apply_iff_of_inverse {f g : Vec → Vec} {S N : Vec} (hS : g (f S) = S) (hN : f (g N) = N) :
    N = f S ↔ g N = S :=
  ⟨fun h => by rw [h, hS], fun h => by rw [← h, hN]⟩

/-! ### The round-check relation -/

/-- The first three steps of R143 are the right side of the round-check relation. -/
theorem roundVec_eq_checkFromCurrent (R : Config.Rom) (r : Fin 7) (C : Vec) :
    roundVec R r C = arkVec R.ark2 r (matvec R.mds (invSboxVec (checkFromCurrent R r C))) := rfl

theorem checkFromCurrent_canonical (R : Config.Rom) (r : Fin 7) (C : Vec) : CanonicalVec (checkFromCurrent R r C) :=
  arkVec_canonical _ _ _

/-- Settles O24: the last three steps of the round move to the other side one by one, each as its inverse. -/
theorem roundCheckCharacterisesRound : Obligations.RoundCheckCharacterisesRound := by
  intro R r C N hR _ hN
  have hcheck : CanonicalVec (checkFromCurrent R r C) := checkFromCurrent_canonical R r C
  have hdiffused : CanonicalVec (matvec R.mds (invSboxVec (checkFromCurrent R r C))) := matvec_canonical _ _
  have hinv : CanonicalVec (invSboxVec (checkFromCurrent R r C)) := invSboxVec_canonical _
  have hN5 : CanonicalVec (unarkVec R.ark2 r N) := unarkVec_canonical _ _ _
  have hN4 : CanonicalVec (matvec R.invMds (unarkVec R.ark2 r N)) := matvec_canonical _ _
  calc N = roundVec R r C
    _ ↔ N = arkVec R.ark2 r (matvec R.mds (invSboxVec (checkFromCurrent R r C))) := by
      rw [roundVec_eq_checkFromCurrent]
    _ ↔ unarkVec R.ark2 r N = matvec R.mds (invSboxVec (checkFromCurrent R r C)) :=
      eq_apply_iff_of_inverse (unarkVec_arkVec _ _ hdiffused) (arkVec_unarkVec _ _ hN)
    _ ↔ matvec R.invMds (unarkVec R.ark2 r N) = invSboxVec (checkFromCurrent R r C) :=
      eq_apply_iff_of_inverse (matvec_invMds_mds hR hinv) (matvec_mds_invMds hR hN5)
    _ ↔ sboxVec (matvec R.invMds (unarkVec R.ark2 r N)) = checkFromCurrent R r C :=
      eq_apply_iff_of_inverse (sboxVec_invSboxVec hcheck) (invSboxVec_sboxVec hN4)

/-! ### The commands -/

section
variable {r : BitVec 3} (h : r.toNat < 7) (s : State)

theorem exec_addArk1 : exec (.addArk1 r) s = .next (s.finish (arkVec Config.rom.ark1 ⟨r.toNat, h⟩ s.S)) :=
  withRoundIndex_of_lt h _

theorem exec_addArk2 : exec (.addArk2 r) s = .next (s.finish (arkVec Config.rom.ark2 ⟨r.toNat, h⟩ s.S)) :=
  withRoundIndex_of_lt h _

theorem exec_round :
    exec (.round r) s = .next (s.useChain.useHalf.finish (roundVec Config.rom ⟨r.toNat, h⟩ s.S)) :=
  withRoundIndex_of_lt h _

end

theorem exec_permute (s : State) :
    exec .permute s = .next (s.useChain.useHalf.useRc.finish (permuteVec Config.rom s.S)) := rfl

/-- Settles O22: every command finishes with its own function of S, a round is by definition the composition of its six
steps, and the permutation is that of its seven rounds (`permuteVec_eq`). -/
theorem roundAndPermuteDecompose : Obligations.RoundAndPermuteDecompose := by
  refine ⟨fun r s h => ?round, fun s => ?permute⟩
  case round =>
    exact ⟨_, _, _, _, _, _, _, exec_sbox s, exec_mdsMul _, exec_addArk1 h _, exec_invSbox _, exec_mdsMul _,
      exec_addArk2 h _, exec_round h s, rfl⟩
  case permute =>
    exact ⟨_, _, _, _, _, _, _, _, exec_round (by decide) s, exec_round (by decide) _, exec_round (by decide) _,
      exec_round (by decide) _, exec_round (by decide) _, exec_round (by decide) _, exec_round (by decide) _,
      exec_permute s, (permuteVec_eq Config.rom s.S).symm⟩

end Sys2Proof.Machine
end

section
/-! The compressor (44_compressor.md R170, R173). MERGE permutes `mergeInit S`, which is S after the host's four
capacity writes and holds none of the old S[0..3]. -/

namespace Sys2Proof.Machine

/-! ### The state MERGE permutes -/

theorem mergeInit_get (S : Vec) (i : Fin 12) :
    (mergeInit S)[i] = if i = 0 then 1 else if i.val < 4 then 0 else S[i] := by
  fin_cases i <;> rfl

/-- R170's starting state as single-element stores. -/
theorem mergeInit_eq_set (S : Vec) : mergeInit S = (((S.set 0 1).set 1 0).set 2 0).set 3 0 :=
  vec_ext fun i => by fin_cases i <;> simp [mergeInit, Config.mergeDomain]

/-- The old capacity does not enter (R170). -/
theorem mergeInit_congr {S T : Vec} (h : ∀ i : Fin 12, 4 ≤ i.val → S[i] = T[i]) : mergeInit S = mergeInit T :=
  vec_ext fun i => by
    rw [mergeInit_get, mergeInit_get]
    split_ifs with hdomain hcapacity
    · rfl
    · rfl
    · exact h i (Nat.le_of_not_lt hcapacity)

/-! ### The capacity writes -/

/-- The host's accepted write of an element (20_memory.md R45). -/
theorem access_store {s : State} (h : s.busy = false) (i : Fin 12) {v : Word} (hv : Canonical v) :
    s.access ⟨.write, (Reg.s i).off, 8, v⟩ = (s.setS i v).okayWrite :=
  (access_write s (.s i) v).trans (writeReg_s_store h i hv)

/-- R173's four writes, each at its register's offset. -/
def State.writeCapacity (s : State) : State :=
  (((s.access ⟨.write, (Reg.s 0).off, 8, 1⟩).access ⟨.write, (Reg.s 1).off, 8, 0⟩).access
    ⟨.write, (Reg.s 2).off, 8, 0⟩).access ⟨.write, (Reg.s 3).off, 8, 0⟩

/-- An idle block accepts the four writes one after another: none of them raises BUSY. -/
theorem writeCapacity_eq {s : State} (h : s.busy = false) :
    s.writeCapacity =
      ((((s.setS 0 1).okayWrite.setS 1 0).okayWrite.setS 2 0).okayWrite.setS 3 0).okayWrite := by
  rw [State.writeCapacity, access_store h 0 one_canonical, access_store ?_ 1 zero_canonical,
    access_store ?_ 2 zero_canonical, access_store ?_ 3 zero_canonical] <;> exact h

theorem writeCapacity_S {s : State} (h : s.busy = false) : s.writeCapacity.S = mergeInit s.S := by
  rw [writeCapacity_eq h, mergeInit_eq_set]
  rfl

/-! ### The command -/

theorem exec_merge (s : State) :
    exec .merge s = .next (s.useChain.useHalf.useRc.finish (mergeVec Config.rom s.S)) := rfl

/-- Settles O26: PERMUTE after the four writes permutes the state MERGE permutes (`writeCapacity_S`), and that state
is the same for states that agree on S[4..11] (`mergeInit_congr`). -/
theorem mergeIsCapacityWritesAndPermute : Obligations.MergeIsCapacityWritesAndPermute := by
  refine ⟨fun s h => ⟨_, _, exec_merge s, exec_permute s.writeCapacity, ?writes⟩,
    fun s s' h => ⟨_, _, exec_merge s, exec_merge s', ?capacity⟩⟩
  case writes => exact congrArg (permuteVec Config.rom) (writeCapacity_S h)
  case capacity => exact congrArg (permuteVec Config.rom) (mergeInit_congr h)

end Sys2Proof.Machine
end

section
/-! Errors (60_exceptions.md R201 to R205). Where no cause of higher priority applies, an access's cause leads it down the
one branch that raises that cause (R204), and a rejected access has a first cause. -/

namespace Sys2Proof.Machine

/-! ### The register that an access names, from its integers -/

/-- BAD_ACCESS applies to exactly the accesses that 20_memory.md R43 calls not legal. -/
theorem badAccess_applies_iff (s : State) (a : Access) :
    ErrCause.badAccess.Applies s a ↔ a.legal = false := by
  rw [← Bool.not_eq_true]
  refine not_congr ?_
  simp [-not_and, not_and_or, Access.legal, Access.ToElement, BitVec.toNat_eq, and_assoc, or_assoc]

/-- An element access that is not BAD_ACCESS is a full-width access to one of S[0..11] (20_memory.md R41). -/
theorem eq_of_toElement {s : State} {a : Access} (hl : ¬ ErrCause.badAccess.Applies s a) (h : a.ToElement) :
    ∃ i, a = ⟨a.kind, (Reg.s i).off, 8, a.wdata⟩ := by
  obtain ⟨hn, halign, -, -⟩ := not_not.mp hl
  obtain ⟨hlo, hhi⟩ := h
  obtain ⟨k, off, n, v⟩ := a
  simp only at hn halign hlo hhi
  have hoff : off = (Reg.s ⟨(off.toNat - 0x40) / 8, by omega⟩).off := by
    apply BitVec.eq_of_toNat_eq
    simp only [Reg.off, BitVec.toNat_ofNat]
    omega
  exact ⟨_, by rw [hn, ← hoff]⟩

theorem toElement_s (k : AccessKind) (i : Fin 12) (n : Nat) (v : Word) :
    (⟨k, (Reg.s i).off, n, v⟩ : Access).ToElement := by
  simp only [Access.ToElement, Reg.off, BitVec.toNat_ofNat]
  omega

/-- A CMD write that is not BAD_ACCESS is a full-width one. -/
theorem eq_of_toCommand {s : State} {a : Access} (hl : ¬ ErrCause.badAccess.Applies s a) (h : a.ToCommand) :
    a = ⟨.write, Reg.cmd.off, 8, a.wdata⟩ := by
  obtain ⟨hn, -, -, -⟩ := not_not.mp hl
  obtain ⟨hk, ho⟩ := h
  obtain ⟨k, off, n, v⟩ := a
  simp only at hn hk ho
  rw [hn, hk, show off = Reg.cmd.off from BitVec.eq_of_toNat_eq ho]

/-- A write to CMD is `issue` (20_memory.md R45). -/
theorem access_of_toCommand {s : State} {a : Access} (hl : ¬ ErrCause.badAccess.Applies s a) (h : a.ToCommand) :
    s.access a = s.issue a.wdata ∧ a.kind = .write := by
  rw [eq_of_toCommand hl h]
  exact ⟨access_write s .cmd a.wdata, rfl⟩

/-! ### One rule for each cause -/

/-- A cause applies and none before it in the priority of R204 does. -/
def ErrCause.First (c : ErrCause) (s : State) (a : Access) : Prop :=
  c.Applies s a ∧ ∀ c' : ErrCause, c'.rank < c.rank → ¬ c'.Applies s a

/-- BUSY is the first check of every element access and of `issue` (20_memory.md R44, R45, 30_encoding.md R65). -/
theorem access_busy {s : State} {a : Access} (hl : ¬ ErrCause.badAccess.Applies s a)
    (h : ErrCause.busy.Applies s a) : s.access a = s.raiseErr a.kind .busy := by
  obtain ⟨hb, helem | hcmd⟩ := h
  · obtain ⟨i, ha⟩ := eq_of_toElement hl helem
    rw [ha]
    cases a.kind with
    | read => exact (access_read s (.s i) a.wdata).trans (readReg_s_busy hb i)
    | write => exact (access_write s (.s i) a.wdata).trans (writeReg_s_busy hb i a.wdata)
  · obtain ⟨hacc, hk⟩ := access_of_toCommand hl hcmd
    rw [hacc, hk, issue_busy hb]

theorem idle_of_not_busy {s : State} {a : Access} (hb : ¬ ErrCause.busy.Applies s a)
    (h : a.ToElement ∨ a.ToCommand) : s.busy = false := by
  simpa using fun hbusy : s.busy = true => hb ⟨hbusy, h⟩

/-- A word the decoder rejects, written to CMD of an idle block. -/
theorem access_rejected_word {s : State} {a : Access} {why : Reject} (hl : ¬ ErrCause.badAccess.Applies s a)
    (hb : ¬ ErrCause.busy.Applies s a) (hcmd : a.ToCommand) (hd : decode a.wdata = .error why) :
    s.access a = s.raiseErr a.kind (causeOfReject why) := by
  obtain ⟨hacc, hk⟩ := access_of_toCommand hl hcmd
  rw [hacc, hk, issue_reject (idle_of_not_busy hb (.inr hcmd)) hd]

theorem access_noncanonical {s : State} {a : Access} (hl : ¬ ErrCause.badAccess.Applies s a)
    (hb : ¬ ErrCause.busy.Applies s a) (h : ErrCause.noncanonical.Applies s a) :
    s.access a = s.raiseErr a.kind .noncanonical := by
  obtain ⟨hk, helem, hv⟩ := h
  obtain ⟨i, ha⟩ := eq_of_toElement hl helem
  rw [hk] at ha ⊢
  rw [ha]
  exact (access_write s (.s i) a.wdata).trans (writeReg_s_noncanonical (idle_of_not_busy hb (.inl helem)) i hv)

/-- The first cause that applies is raised (R204). -/
theorem access_of_first {s : State} {a : Access} {c : ErrCause} (h : c.First s a) :
    s.access a = s.raiseErr a.kind c := by
  obtain ⟨hc, hfirst⟩ := h
  cases c with
  | badAccess => exact access_illegal ((badAccess_applies_iff s a).mp hc)
  | busy => exact access_busy (hfirst .badAccess (by decide)) hc
  | illegalCmd =>
    exact access_rejected_word (hfirst .badAccess (by decide)) (hfirst .busy (by decide)) hc.1
      ((decode_illegal_iff _).mpr hc.2)
  | badRound =>
    have hword : ¬ IllegalWord a.wdata.toNat := fun hi => hfirst .illegalCmd (by decide) ⟨hc.1, hi⟩
    exact access_rejected_word (hfirst .badAccess (by decide)) (hfirst .busy (by decide)) hc.1
      ((decode_badRound_iff _).mpr ⟨hword, hc.2⟩)
  | noncanonical => exact access_noncanonical (hfirst .badAccess (by decide)) (hfirst .busy (by decide)) hc

/-! ### No cause -/

/-- A read is refused only for an element of a busy block (20_memory.md R44). -/
theorem readReg_okay {s : State} {r : Reg} (h : ∀ i, r = .s i → s.busy = false) :
    s.readReg r = s.okayRead (s.regValue r) := by
  cases r with
  | id => rfl
  | cmd => rfl
  | status => rfl
  | s i => exact readReg_s_idle (h i rfl) i

/-- An access to which no cause applies is answered OKAY. -/
theorem access_okay {s : State} {a : Access} (h : ∀ c : ErrCause, ¬ c.Applies s a) :
    ∃ r, (s.access a).responses = s.responses ++ [r] ∧ r.okay = true := by
  have hlegal : a.legal = true := by simpa using mt (badAccess_applies_iff s a).mpr (h .badAccess)
  obtain ⟨hn, r, ho, hid⟩ := (legal_iff a).mp hlegal
  have hidle := idle_of_not_busy (h .busy)
  obtain ⟨k, off, n, v⟩ := a
  simp only at hn ho hid
  subst hn ho
  cases k with
  | read =>
    have hread : s.readReg r = s.okayRead (s.regValue r) := readReg_okay fun i hi => hidle (.inl (by
      rw [hi]
      exact toElement_s .read i 8 v))
    rw [access_read, hread]
    exact ⟨_, rfl, rfl⟩
  | write =>
    rw [access_write]
    cases r with
    | id => exact absurd ⟨rfl, rfl⟩ hid
    | cmd =>
      have hcmd : (⟨.write, Reg.cmd.off, 8, v⟩ : Access).ToCommand := ⟨rfl, rfl⟩
      obtain ⟨i, hi⟩ := (decode_ok_iff v).mpr
        ⟨fun hw => h .illegalCmd ⟨hcmd, hw⟩, fun hw => h .badRound ⟨hcmd, hw⟩⟩
      exact ⟨_, congrArg State.responses (issue_accept (hidle (.inr hcmd)) hi), rfl⟩
    | status => exact ⟨_, rfl, rfl⟩
    | s i =>
      have helem := toElement_s .write i 8 v
      have hv : v.toNat < Config.P := Nat.lt_of_not_le fun hle => h .noncanonical ⟨rfl, helem, hle⟩
      exact ⟨_, congrArg State.responses (writeReg_s_store (hidle (.inl helem)) i hv), rfl⟩

/-! ### The record of a rejected access -/

theorem raiseErr_errcode_of_clear {s : State} (h : s.err = false) (k : AccessKind) (c : ErrCause) :
    (s.raiseErr k c).errcode = c.code := by simp [h]

/-- Where some cause applies, one of least rank does. -/
theorem exists_first {s : State} {a : Access} (h : ∃ c : ErrCause, c.Applies s a) : ∃ c : ErrCause, c.First s a := by
  obtain ⟨c, hc, hmin⟩ := (measure ErrCause.rank).wf.has_min {c | c.Applies s a} h
  exact ⟨c, hc, fun c' hlt happ => hmin c' happ hlt⟩

/-- An access answered ERROR raises the first cause that applies to it. -/
theorem rejected_first {s : State} {a : Access} {r : Response} (hr : (s.access a).responses = s.responses ++ [r])
    (hok : r.okay = false) :
    ∃ c : ErrCause, c.Applies s a ∧ s.access a = s.raiseErr a.kind c ∧ r = errorResponse a.kind := by
  by_cases h : ∃ c : ErrCause, c.Applies s a
  case pos =>
    obtain ⟨c, hfirst⟩ := exists_first h
    have hacc := access_of_first hfirst
    rw [hacc, State.raiseErr_responses] at hr
    exact ⟨c, hfirst.1, hacc, by simpa using hr.symm⟩
  case neg =>
    obtain ⟨r', hr', hok'⟩ := access_okay (not_exists.mp h)
    have hrr : r = r' := by simpa using hr.symm.trans hr'
    simp [← hrr, hok] at hok'

/-! ### The obligations -/

/-- Settles O43: the first cause is raised (`access_of_first`), with its number of R201 where ERR was 0, and an access
without a cause is answered OKAY (`access_okay`). -/
theorem firstApplicableErrorIsReported : Obligations.FirstApplicableErrorIsReported := by
  refine ⟨fun s a c hc hfirst => ?_, fun s a h => access_okay h⟩
  have hacc := access_of_first ⟨hc, hfirst⟩
  refine ⟨hacc, fun herr => ?_⟩
  rw [hacc, raiseErr_errcode_of_clear herr]
  cases c <;> rfl

/-- Settles O44: an access answered ERROR raises a cause that applies (`rejected_first`), and raising touches the
error record and the responses only. -/
theorem rejectionRecordsTheFirstErrorOnly : Obligations.RejectionRecordsTheFirstErrorOnly := by
  intro s a r hr hok
  obtain ⟨c, hc, hacc, hresp⟩ := rejected_first hr hok
  rw [hacc, hresp]
  refine ⟨fun hk => ?read, rfl, fun herr => ?sticky, fun herr => ?first, rfl⟩
  case read =>
    rw [hk]
    rfl
  case sticky => simp [herr]
  case first =>
    rw [raiseErr_errcode_of_clear herr]
    cases c with
    | illegalCmd => exact .inl ⟨hc, rfl⟩
    | badRound => exact .inr (.inl ⟨hc, rfl⟩)
    | noncanonical => exact .inr (.inr (.inl ⟨hc, rfl⟩))
    | busy => exact .inr (.inr (.inr (.inl ⟨hc, rfl⟩)))
    | badAccess => exact .inr (.inr (.inr (.inr ⟨hc, rfl⟩)))

end Sys2Proof.Machine
end

section
/-! The command word, encoded and decoded (30_encoding.md R61 to R65, R71): an opcode and the row of the opcode map it
selects determine each other, so the three fields of a word carry over both ways. -/

namespace Sys2Proof.Machine

/-! ### The opcode map and the encoder's two tables -/

/-- The three fields of every encoded command. -/
theorem encode_fields (i : Instr) : opcodeOf (encode i) = i.opcode ∧ rndOf (encode i) = i.rnd ∧ rsvOf (encode i) = 0 :=
  match i with
  | .nop => Laws.EncodeFields.nop
  | .sbox => Laws.EncodeFields.sbox
  | .invSbox => Laws.EncodeFields.invSbox
  | .mdsMul => Laws.EncodeFields.mdsMul
  | .invMdsMul => Laws.EncodeFields.invMdsMul
  | .addArk1 r => Laws.EncodeFields.addArk1 r
  | .addArk2 r => Laws.EncodeFields.addArk2 r
  | .round r => Laws.EncodeFields.round r
  | .permute => Laws.EncodeFields.permute
  | .merge => Laws.EncodeFields.merge
  | .clear => Laws.EncodeFields.clear

/-- From a command to its row: the row of its opcode builds it from its own operand. -/
theorem opcodeRow_opcode (i : Instr) :
    (opcodeRow i.opcode = some (.plain i) ∧ i.rnd = 0) ∨
    ∃ f, opcodeRow i.opcode = some (.withRound f) ∧ i = f i.rnd ∧ i.wellFormed = roundInRange i.rnd := by
  cases i with
  | addArk1 r => exact .inr ⟨_, rfl, rfl, rfl⟩
  | addArk2 r => exact .inr ⟨_, rfl, rfl, rfl⟩
  | round r => exact .inr ⟨_, rfl, rfl, rfl⟩
  | nop | sbox | invSbox | mdsMul | invMdsMul | permute | merge | clear => exact .inl ⟨rfl, rfl⟩

/-- From a row to its commands: each carries the opcode of the row and the operand it was built from. -/
def FaithfulRow (op : BitVec 8) : OpcodeRow → Prop
  | .plain i => i.opcode = op ∧ i.rnd = 0 ∧ i.wellFormed = true
  | .withRound f => ∀ r, (f r).opcode = op ∧ (f r).rnd = r ∧ (f r).wellFormed = roundInRange r

theorem eq_ofNat_of_toNat_eq {op : BitVec 8} {n : Nat} (h : op.toNat = n) : op = BitVec.ofNat 8 n := by simp [← h]

theorem opcodeRow_faithful {op : BitVec 8} {row : OpcodeRow} (h : opcodeRow op = some row) :
    FaithfulRow op row := by
  unfold opcodeRow at h
  split at h
  case h_12 => cases h
  all_goals
    rename_i hop
    cases h
    obtain rfl := eq_ofNat_of_toNat_eq hop
    simp [FaithfulRow, Instr.opcode, Instr.rnd, Instr.wellFormed]

/-! ### The round trip -/

theorem decode_encode {i : Instr} (hi : i.wellFormed = true) : decode (encode i) = .ok i := by
  obtain ⟨hop, hrnd, hrsv⟩ := encode_fields i
  obtain ⟨hrow, h0⟩ | ⟨f, hrow, hf, hwf⟩ := opcodeRow_opcode i
  · exact decode_plain (hop ▸ hrow) hrsv (hrnd.trans h0)
  · have h7 : i.rnd ≠ 7 := (roundInRange_iff _).mp (hwf ▸ hi)
    rw [decode_withRound (hop ▸ hrow) hrsv (hrnd ▸ h7), hrnd, ← hf]

theorem encode_eq_of_fields {v : Word} {i : Instr} (hop : i.opcode = opcodeOf v) (hrnd : i.rnd = rndOf v)
    (hrsv : rsvOf v = 0) : encode i = v := by
  obtain ⟨heop, hernd, hersv⟩ := encode_fields i
  exact word_eq_of_fields (heop.trans hop) (hernd.trans hrnd) (hersv.trans hrsv.symm)

theorem encode_decode {v : Word} {i : Instr} (h : decode v = .ok i) : encode i = v ∧ i.wellFormed = true := by
  obtain ⟨hrsv, ⟨hrow, h0⟩ | ⟨f, hrow, h7, rfl⟩⟩ := decode_ok_cases h
  · obtain ⟨hop, hrnd, hwf⟩ := opcodeRow_faithful hrow
    exact ⟨encode_eq_of_fields hop (hrnd.trans h0.symm) hrsv, hwf⟩
  · obtain ⟨hop, hrnd, hwf⟩ := opcodeRow_faithful hrow (rndOf v)
    exact ⟨encode_eq_of_fields hop hrnd hrsv, hwf.trans ((roundInRange_iff _).mpr h7)⟩

/-! ### The obligations -/

/-- Settles O32: the encoded fields select the command's own row and its own operand. -/
theorem decodeOfEncode : Obligations.DecodeOfEncode := fun _ => decode_encode

/-- Settles O33: the row that the decoder read carries the opcode and the operand of the word, and RSV is 0, so the
encoding has the word's three fields. -/
theorem encodeOfDecode : Obligations.EncodeOfDecode := fun _ _ => encode_decode

/-- Settles O31: every word is `encode_toNat` with the opcode of the table. -/
theorem commandWordsFollowTheOpcodeMap : Obligations.CommandWordsFollowTheOpcodeMap :=
  ⟨encode_toNat .nop, encode_toNat .sbox, encode_toNat .invSbox, encode_toNat .mdsMul, encode_toNat .invMdsMul,
    fun r => encode_toNat (.addArk1 r), fun r => encode_toNat (.addArk2 r), fun r => encode_toNat (.round r),
    encode_toNat .permute, encode_toNat .merge, encode_toNat .clear, by decide, by decide⟩

/-- Settles O35: the accepted words are encodings, so they decode by the round trip, and the two rejected ones are
single evaluations. -/
theorem writtenOutWordsDecode : Obligations.WrittenOutWordsDecode :=
  ⟨decode_encode (i := .nop) rfl, decode_encode (i := .invSbox) rfl, decode_encode (i := .invMdsMul) rfl,
    decode_encode (i := .addArk1 3) rfl, decode_encode (i := .addArk2 6) rfl, decode_encode (i := .round 6) rfl,
    decode_encode (i := .merge) rfl, decode_encode (i := .clear) rfl, by decide, by decide⟩

end Sys2Proof.Machine
end

section
/-! The invariant (10_state.md R23, R28, R29, R32; 60_exceptions.md R201): it speaks of the block's own fields only, each
of the three kinds of step keeps it, and a state that meets it takes a step, so every accepted command completes
(30_encoding.md R67). -/

namespace Sys2Proof.Machine

/-! ### What `exec` answers, from the command's result -/

theorem exec_of_result {i : Instr} {s : State} {v : Vec} (h : commandResult Config.rom s.S i = some v) :
    ∃ t, exec i s = .next t ∧ CompletedFrom s t ∧ t.S = v := by
  have hnext : ∃ t, exec i s = .next t := by
    cases i with
    | addArk1 r | addArk2 r | round r =>
      obtain ⟨k, hk, -⟩ := Option.map_eq_some_iff.mp h
      simp [exec, execAddArk1, execAddArk2, execRound, withRoundIndex, hk]
    | nop | sbox | invSbox | mdsMul | invMdsMul | permute | merge | clear => exact ⟨_, rfl⟩
  obtain ⟨t, ht⟩ := hnext
  obtain ⟨hdone, hres⟩ := exec_next_cases ht
  exact ⟨t, ht, hdone, Option.some.inj (hres.symm.trans h)⟩

/-- Only the operand 7 has no result, and `exec` stops on it by name. -/
theorem exec_of_no_result {i : Instr} {s : State} (h : commandResult Config.rom s.S i = none) :
    exec i s = .fault .roundOutOfRange := by
  cases i with
  | addArk1 r | addArk2 r | round r =>
    have hk : roundIndex r = none := Option.map_eq_none_iff.mp h
    simp only [exec, execAddArk1, execAddArk2, execRound, withRoundIndex, hk]
  | nop | sbox | invSbox | mdsMul | invMdsMul | permute | merge | clear => cases h

theorem commandResult_of_wellFormed (R : Config.Rom) (S : Vec) {i : Instr} (h : i.wellFormed = true) :
    ∃ v, commandResult R S i = some v := by
  cases i with
  | addArk1 r | addArk2 r | round r =>
    have hr : r.toNat < 7 := of_decide_eq_true h
    simp [commandResult, roundIndex_of_lt hr]
  | nop | sbox | invSbox | mdsMul | invMdsMul | permute | merge | clear => exact ⟨_, rfl⟩

/-! ### Every operation of the state keeps the invariant -/

section
variable {s : State}

theorem reset_inv : State.reset.Inv where
  canonical := zeroVec_canonical
  cmdAccepted := ⟨.nop, decode_encode (i := .nop) rfl⟩
  pendingIsCmd _ h := nomatch h
  busyIffPending := rfl
  notBusyAndDone h := nomatch h.1
  errRecord := ⟨fun _ => rfl, fun _ => rfl⟩
  errcodeAssigned := Nat.zero_le 5

theorem resetBlock_inv (s : State) : s.resetBlock.Inv :=
  ⟨reset_inv.canonical, reset_inv.cmdAccepted, reset_inv.pendingIsCmd, reset_inv.busyIffPending,
    reset_inv.notBusyAndDone, reset_inv.errRecord, reset_inv.errcodeAssigned⟩

theorem popEvent_inv (h : s.Inv) : s.popEvent.Inv :=
  ⟨h.canonical, h.cmdAccepted, h.pendingIsCmd, h.busyIffPending, h.notBusyAndDone, h.errRecord, h.errcodeAssigned⟩

theorem respond_inv (h : s.Inv) (r : Response) : (s.respond r).Inv :=
  ⟨h.canonical, h.cmdAccepted, h.pendingIsCmd, h.busyIffPending, h.notBusyAndDone, h.errRecord, h.errcodeAssigned⟩

theorem setS_inv (h : s.Inv) (i : Fin 12) {v : Word} (hv : Canonical v) : (s.setS i v).Inv :=
  ⟨setS_canonical h.canonical i hv, h.cmdAccepted, h.pendingIsCmd, h.busyIffPending, h.notBusyAndDone, h.errRecord,
    h.errcodeAssigned⟩

/-- A recorded code is that of a cause, or the one of the record before. -/
theorem recordError_inv (h : s.Inv) (c : ErrCause) : (s.recordError c).Inv where
  canonical := h.canonical
  cmdAccepted := h.cmdAccepted
  pendingIsCmd := h.pendingIsCmd
  busyIffPending := h.busyIffPending
  notBusyAndDone := h.notBusyAndDone
  errRecord := by
    have hrec := h.errRecord
    cases herr : s.err with
    | false => exact iff_of_false (by simp) (by simpa [herr] using code_ne_zero c)
    | true => simpa [herr] using hrec
  errcodeAssigned := by
    rw [State.recordError_errcode]
    split
    · exact h.errcodeAssigned
    · exact code_le_five c

theorem raiseErr_inv (h : s.Inv) (k : AccessKind) (c : ErrCause) : (s.raiseErr k c).Inv :=
  respond_inv (recordError_inv h c) _

/-- A write to STATUS clears ERR and ERRCODE together. -/
theorem writeStatus_inv (h : s.Inv) (v : Word) : (s.writeStatus v).Inv where
  canonical := h.canonical
  cmdAccepted := h.cmdAccepted
  pendingIsCmd := h.pendingIsCmd
  busyIffPending := h.busyIffPending
  notBusyAndDone hbd := h.notBusyAndDone ⟨hbd.1, (Bool.and_eq_true_iff.mp hbd.2).1⟩
  errRecord := by
    rw [State.writeStatus_err, State.writeStatus_errcode]
    cases v.getLsbD 2 with
    | false => simpa using h.errRecord
    | true => simp
  errcodeAssigned := by
    rw [State.writeStatus_errcode]
    split
    · exact Nat.zero_le 5
    · exact h.errcodeAssigned

theorem accept_inv (h : s.Inv) {v : Word} (hv : ∃ i, decode v = .ok i) : (s.accept v).Inv where
  canonical := h.canonical
  cmdAccepted := hv
  pendingIsCmd _ hw := (Option.some.inj hw).symm
  busyIffPending := rfl
  notBusyAndDone hbd := nomatch hbd.2
  errRecord := h.errRecord
  errcodeAssigned := h.errcodeAssigned

theorem completed_inv {t : State} (h : s.Inv) (hS : CanonicalVec t.S) (hdone : CompletedFrom s t) : t.Inv where
  canonical := hS
  cmdAccepted := hdone.cmd ▸ h.cmdAccepted
  pendingIsCmd v hv := by simp [hdone.pending] at hv
  busyIffPending := by simp [hdone.busy, hdone.pending]
  notBusyAndDone hbd := by simp [hdone.busy] at hbd
  errRecord := by rw [hdone.err, hdone.errcode]; exact h.errRecord
  errcodeAssigned := hdone.errcode ▸ h.errcodeAssigned

/-! ### Every kind of step keeps it -/

theorem access_inv (h : s.Inv) (a : Access) : (s.access a).Inv := by
  obtain ⟨c, he⟩ | ⟨-, r, -, he⟩ | ⟨-, -, hd, he⟩ | ⟨-, he⟩ | ⟨i, -, -, hv, he⟩ := access_cases s a <;> rw [he]
  · exact raiseErr_inv h _ c
  · exact respond_inv h _
  · exact respond_inv (accept_inv h hd) _
  · exact respond_inv (writeStatus_inv h _) _
  · exact respond_inv (setS_inv h i hv) _

theorem engineTurn_inv {t : State} (h : s.Inv) (ht : engineTurn s = .next t) : t.Inv := by
  obtain ⟨-, rfl⟩ | ⟨v, i, -, -, hexec⟩ := engineTurn_cases ht
  · exact h
  · obtain ⟨hdone, hres⟩ := exec_next_cases hexec
    exact completed_inv h (commandResult_canonical h.canonical hres) hdone

theorem step_inv {t : State} (h : s.Inv) (ht : step s = .next t) : t.Inv := by
  obtain ⟨-, hengine⟩ | ⟨a, -, -, rfl⟩ | ⟨-, -, rfl⟩ := step_cases ht
  · exact engineTurn_inv (popEvent_inv h) hengine
  · exact access_inv (popEvent_inv h) a
  · exact resetBlock_inv _

/-! ### Progress -/

/-- The pending word is CMD, which decodes, to a well-formed command. -/
theorem engineTurn_next (h : s.Inv) : ∃ t, engineTurn s = .next t ∧ t.busy = false := by
  cases hp : s.pending with
  | none => exact ⟨s, engineTurn_idle hp, by simp [h.busyIffPending, hp]⟩
  | some v =>
    obtain ⟨i, hd⟩ := h.cmdAccepted
    rw [← h.pendingIsCmd v hp] at hd
    obtain ⟨r, hres⟩ := commandResult_of_wellFormed Config.rom s.S (encode_decode hd).2
    obtain ⟨t, ht, hdone, -⟩ := exec_of_result hres
    exact ⟨t, (engineTurn_command hp hd).trans ht, hdone.busy⟩

theorem step_next (h : s.Inv) : ∃ t, step s = .next t := by
  rcases ha : s.agenda with _ | ⟨a | _ | _, rest⟩
  · obtain ⟨t, ht, -⟩ := engineTurn_next h
    exact ⟨t, (step_nil ha).trans ht⟩
  · exact ⟨_, step_access ha⟩
  · obtain ⟨t, ht, -⟩ := engineTurn_next (popEvent_inv h)
    exact ⟨t, (step_complete ha).trans ht⟩
  · exact ⟨_, step_reset ha⟩

end

/-! ### Runs -/

/-- n steps lead from s to t. -/
def Runs (n : Nat) (s t : State) : Prop := Sys2Proof.core.run n s = .next t

section
variable {m n : Nat} {s t u : State}

theorem runs_zero (s : State) : Runs 0 s s := rfl

theorem runs_of_eq (hrun : Runs m s t) (h : m = n) : Runs n s t := h ▸ hrun

theorem runs_step (h : step s = .next t) (hrun : Runs n t u) : Runs (n + 1) s u := by
  have hstep : Sys2Proof.core.step s = .next t := h
  simp only [Runs, Host.Core.run, hstep]
  exact hrun

theorem runs_one (h : step s = .next t) : Runs 1 s t := runs_step h (runs_zero t)

theorem runs_succ_cases (h : Runs (n + 1) s t) : ∃ u, step s = .next u ∧ Runs n u t := by
  simp only [Runs, Host.Core.run] at h
  split at h
  case h_1 u hu => exact ⟨u, hu, h⟩
  all_goals cases h

theorem runs_add (h : Runs m s t) (hrun : Runs n t u) : Runs (m + n) s u := by
  induction m generalizing s with
  | zero =>
    cases h
    rwa [Nat.zero_add]
  | succ m ih =>
    obtain ⟨s', hs', hrun'⟩ := runs_succ_cases h
    rw [Nat.succ_add]
    exact runs_step hs' (ih hrun')

end

/-! ### What a step does to the agenda and the responses -/

theorem access_agenda (s : State) (a : Access) : (s.access a).agenda = s.agenda := by
  obtain ⟨c, he⟩ | ⟨-, r, -, he⟩ | ⟨-, -, -, he⟩ | ⟨-, he⟩ | ⟨i, -, -, -, he⟩ := access_cases s a <;> rw [he] <;> rfl

theorem engineTurn_agenda {s t : State} (h : engineTurn s = .next t) : t.agenda = s.agenda := by
  obtain ⟨-, rfl⟩ | ⟨v, i, -, -, hexec⟩ := engineTurn_cases h
  · rfl
  · exact (exec_next_cases hexec).1.agenda

theorem step_agenda {s t : State} (h : step s = .next t) : t.agenda = s.agenda.tail := by
  obtain ⟨-, hengine⟩ | ⟨a, -, -, rfl⟩ | ⟨-, -, rfl⟩ := step_cases h
  · exact engineTurn_agenda hengine
  · exact access_agenda _ a
  · rfl

/-- Induction on the scheduled events: when they are used up, the next step is the engine's. -/
theorem runs_to_idle (n : Nat) {s : State} (h : s.Inv) (hn : s.agenda.length = n) :
    ∃ t, Runs (n + 1) s t ∧ t.busy = false := by
  induction n generalizing s with
  | zero =>
    obtain ⟨t, ht, hbusy⟩ := engineTurn_next h
    exact ⟨t, runs_one ((step_nil (List.eq_nil_of_length_eq_zero hn)).trans ht), hbusy⟩
  | succ n ih =>
    obtain ⟨u, hu⟩ := step_next h
    obtain ⟨t, ht, hbusy⟩ := ih (step_inv h hu) (by rw [step_agenda hu, List.length_tail, hn, Nat.add_sub_cancel])
    exact ⟨t, runs_step hu ht, hbusy⟩

/-! ### The obligations -/

/-- Settles O50: the engine's turn, an access and a reset each keep the invariant. -/
theorem everyStepKeepsTheInvariant : Obligations.EveryStepKeepsTheInvariant := fun _ _ h => step_inv h

/-- Settles O49: the reset table field by field. -/
theorem invariantHoldsAtReset : Obligations.InvariantHoldsAtReset := reset_inv

/-- Settles O51: only the engine's turn could stop, and the invariant gives it a well-formed pending command. -/
theorem stepsNeverStop : Obligations.StepsNeverStop := fun _ => step_next

/-- Settles O52: the block is idle at the latest after every scheduled event and one more turn of the engine. -/
theorem acceptedCommandsComplete : Obligations.AcceptedCommandsComplete := fun _ h =>
  have ⟨t, ht, hbusy⟩ := runs_to_idle _ h rfl
  ⟨_, t, le_rfl, ht, hbusy⟩

end Sys2Proof.Machine
end

section
/-! What one step can change (10_state.md R22, R32; 20_memory.md R47, R49, R51; 30_encoding.md R65, R68), read off the
cases of `step_cases`, `access_cases` and `exec_next_cases`. -/

namespace Sys2Proof.Machine

/-! ### One access -/

theorem access_response (s : State) (a : Access) :
    ∃ r, (s.access a).responses = s.responses ++ [r] ∧ (r.rdata = none ↔ a.kind = .write) := by
  obtain ⟨c, he⟩ | ⟨hk, r, -, he⟩ | ⟨ha, -, -, he⟩ | ⟨ha, he⟩ | ⟨i, ha, -, -, he⟩ := access_cases s a <;> rw [he]
  · exact ⟨_, rfl, by cases a.kind <;> simp [errorResponse]⟩
  · exact ⟨_, rfl, by simp [hk]⟩
  all_goals exact ⟨_, rfl, by rw [ha]; simp⟩

/-- Only an accepted CMD write touches the handshake and CMD. -/
theorem access_command_cases (s : State) (a : Access) :
    ((s.access a).busy = s.busy ∧ (s.access a).cmd = s.cmd ∧ (s.access a).pending = s.pending ∧
      (s.done = false → (s.access a).done = false)) ∨
    (a = ⟨.write, Reg.cmd.off, 8, a.wdata⟩ ∧ s.busy = false ∧ (∃ i, decode a.wdata = .ok i) ∧
      s.access a = (s.accept a.wdata).okayWrite) := by
  obtain ⟨c, he⟩ | ⟨-, r, -, he⟩ | haccept | ⟨-, he⟩ | ⟨i, -, -, -, he⟩ := access_cases s a
  case inr.inr.inl => exact .inr haccept
  case inr.inr.inr.inl =>
    rw [he]
    exact .inl ⟨rfl, rfl, rfl, fun hd => by simp [hd]⟩
  all_goals
    rw [he]
    exact .inl ⟨rfl, rfl, rfl, id⟩

/-- Only an accepted element write touches S. -/
theorem access_S_cases (s : State) (a : Access) :
    (s.access a).S = s.S ∨
    ∃ i, a = ⟨.write, (Reg.s i).off, 8, a.wdata⟩ ∧ s.busy = false ∧ Canonical a.wdata ∧
      (s.access a).S = s.S.set i a.wdata := by
  obtain ⟨c, he⟩ | ⟨-, r, -, he⟩ | ⟨-, -, -, he⟩ | ⟨-, he⟩ | ⟨i, ha, hb, hv, he⟩ := access_cases s a
  case inr.inr.inr.inr => exact .inr ⟨i, ha, hb, hv, by rw [he]; rfl⟩
  all_goals exact .inl (by rw [he]; rfl)

/-! ### The engine's turn and the next event -/

theorem engineTurn_responses {s t : State} (h : engineTurn s = .next t) : t.responses = s.responses := by
  obtain ⟨-, rfl⟩ | ⟨v, i, -, -, hexec⟩ := engineTurn_cases h
  · rfl
  · exact (exec_next_cases hexec).1.responses

theorem engineTurn_cmd {s t : State} (h : engineTurn s = .next t) : t.cmd = s.cmd := by
  obtain ⟨-, rfl⟩ | ⟨v, i, -, -, hexec⟩ := engineTurn_cases h
  · rfl
  · exact (exec_next_cases hexec).1.cmd

/-- The engine's turn changes nothing, or leaves the block idle. -/
theorem engineTurn_eq_or_idle {s t : State} (h : engineTurn s = .next t) : t = s ∨ t.busy = false := by
  obtain ⟨-, rfl⟩ | ⟨v, i, -, -, hexec⟩ := engineTurn_cases h
  · exact .inl rfl
  · exact .inr (exec_next_cases hexec).1.busy

theorem not_access_of_engineTurn {s : State} (h : EngineTurnNext s) (a : Access) (rest : List Event) :
    s.agenda ≠ .access a :: rest := by
  rcases h with h | ⟨rest', h⟩ <;> simp [h]

/-! ### The obligations -/

/-- Settles O46: on the engine's turn the step is `engineTurn_command`, and a placed word is pending with that turn
next. -/
theorem stepRunsThePendingCommand : Obligations.StepRunsThePendingCommand := by
  refine ⟨fun s v i hturn hp hd => (step_engine hturn).trans (engineTurn_command hp hd), fun s w i hd => ?placed⟩
  case placed =>
    have hword : BitVec.ofNat 64 (w % 2 ^ 64) = BitVec.ofNat 64 w := BitVec.eq_of_toNat_eq (by simp)
    rw [State.withFetchWord, hword, step_complete (State.withCommand_agenda s _), engineTurn_command rfl hd]
    rfl

/-- Settles O47: an idle engine turn is `engineTurn_idle`. -/
theorem idleBlockKeepsItsState : Obligations.IdleBlockKeepsItsState := fun _ hp hturn =>
  (step_engine hturn).trans (engineTurn_idle hp)

/-- Settles O48: the step is `resetBlock`, whose fields are the reset table's. -/
theorem resetGivesTheResetTable : Obligations.ResetGivesTheResetTable := by
  intro s rest h
  have hstatus : State.reset.statusWord = 0 := by decide
  exact ⟨_, step_reset h, fun i => by simp, rfl, hstatus, rfl, rfl, rfl, rfl, rfl, idWord_eq, by simp [h], rfl⟩

/-- Settles O55: the engine's turn leaves S to a command other than NOP, an access to an accepted element write
(`access_S_cases`). -/
theorem stateRegistersChangeOnlyByTheirRules : Obligations.StateRegistersChangeOnlyByTheirRules := by
  intro s t h hne
  obtain ⟨hturn, hengine⟩ | ⟨a, rest, ha, rfl⟩ | ⟨rest, ha, rfl⟩ := step_cases h
  · obtain ⟨-, rfl⟩ | ⟨v, i, hp, hd, hexec⟩ := engineTurn_cases hengine
    · exact absurd rfl hne
    · refine .inl ⟨hturn, v, i, hp, hd, fun hnop => hne ?_⟩
      subst hnop
      exact (Option.some.inj (exec_next_cases hexec).2).symm
  · obtain hS | ⟨i, hacc, hb, hv, hS⟩ := access_S_cases s.popEvent a
    · exact absurd hS hne
    · exact .inr (.inl ⟨i, a.wdata, rest, hacc ▸ ha, hb, hv, hS⟩)
  · exact .inr (.inr ⟨rest, ha, fun i => by simp⟩)

/-- Settles O56: among all steps only an accepted CMD write raises BUSY, and only it and a reset change CMD
(`access_command_cases`). -/
theorem onlyAcceptanceStartsACommand : Obligations.OnlyAcceptanceStartsACommand := by
  intro s t h
  obtain ⟨-, hengine⟩ | ⟨a, rest, ha, rfl⟩ | ⟨rest, ha, rfl⟩ := step_cases h
  · refine ⟨fun hs ht => ?_, fun hne => absurd (engineTurn_cmd hengine) hne⟩
    obtain rfl | hidle := engineTurn_eq_or_idle hengine
    · exact absurd (hs.symm.trans ht) Bool.false_ne_true
    · exact absurd (hidle.symm.trans ht) Bool.false_ne_true
  · obtain ⟨hbusy, hcmd, -, -⟩ | ⟨hacc, hb, ⟨i, hd⟩, he⟩ := access_command_cases s.popEvent a
    · exact ⟨fun hs ht => absurd (hs.symm.trans (hbusy.symm.trans ht)) Bool.false_ne_true, fun hne => absurd hcmd hne⟩
    · have hagenda : s.agenda = wr .cmd a.wdata :: rest := hacc ▸ ha
      rw [he]
      exact ⟨fun _ _ => ⟨a.wdata, i, rest, hagenda, hd, rfl, rfl, rfl⟩,
        fun _ => .inl ⟨a.wdata, i, rest, hagenda, hd, rfl, hb⟩⟩
  · exact ⟨fun _ ht => (nomatch ht), fun _ => .inr ⟨rest, ha⟩⟩

/-- Settles O57: while BUSY stays 1 no command completes and none is accepted, and an element write is refused. -/
theorem runningCommandIsUndisturbed : Obligations.RunningCommandIsUndisturbed := by
  intro s t h hs ht
  obtain ⟨-, hengine⟩ | ⟨a, rest, -, rfl⟩ | ⟨rest, -, rfl⟩ := step_cases h
  · obtain rfl | hidle := engineTurn_eq_or_idle hengine
    · exact ⟨rfl, rfl, rfl, id⟩
    · exact absurd (hidle.symm.trans ht) Bool.false_ne_true
  · obtain ⟨-, hcmd, hpending, hdone⟩ | ⟨-, hidle, -⟩ := access_command_cases s.popEvent a
    · obtain hS | ⟨i, -, hidle, -⟩ := access_S_cases s.popEvent a
      · exact ⟨hS, hcmd, hpending, hdone⟩
      · exact absurd (hidle.symm.trans hs) Bool.false_ne_true
    · exact absurd (hidle.symm.trans hs) Bool.false_ne_true
  · exact nomatch ht

/-- Settles O58: the step takes one event (`step_agenda`), and only an access responds, once. -/
theorem oneResponseToEachAccess : Obligations.OneResponseToEachAccess := by
  intro s t h
  refine ⟨step_agenda h, ?_⟩
  obtain ⟨hturn, hengine⟩ | ⟨a, rest, ha, rfl⟩ | ⟨rest, ha, rfl⟩ := step_cases h
  · exact .inr ⟨not_access_of_engineTurn hturn, (engineTurn_responses hengine :)⟩
  · obtain ⟨r, hr, hdata⟩ := access_response s.popEvent a
    exact .inl ⟨a, rest, r, ha, hr, hdata⟩
  · exact .inr ⟨by simp [ha], rfl⟩

end Sys2Proof.Machine
end

section
/-! The hidden engine state is never observed (10_state.md R32). A state that differs from s in it alone is
`s.withHidden h k`: accesses and the reset treat the two alike, and what `exec` answers is determined by S, by the
command and by the fields its completion keeps. -/

namespace Sys2Proof.Machine

/-- s with another hidden engine state and another count of free values. -/
def State.withHidden (s : State) (h : Hidden) (k : Nat) : State := { s with hidden := h, freeTick := k }

theorem SameButHidden.eq_withHidden {s s' : State} (h : SameButHidden s s') :
    s' = s.withHidden s'.hidden s'.freeTick := by
  obtain ⟨hS, hcmd, hbusy, hdone, herr, herrcode, hpending, hagenda, hresponses⟩ := h
  cases s'
  simp_all [State.withHidden]

theorem sameButHidden_withHidden (s : State) (h : Hidden) (k : Nat) : SameButHidden s (s.withHidden h k) :=
  ⟨rfl, rfl, rfl, rfl, rfl, rfl, rfl, rfl, rfl⟩

/-- The second outcome answers what the first does, up to the hidden engine state. -/
def OutcomesAgree (o o' : Host.Outcome State Fault Refusal) : Prop :=
  (∀ t, o = .next t → ∃ t', o' = .next t' ∧ SameButHidden t t') ∧ ∀ f, o = .fault f → o' = .fault f

theorem outcomesAgree_next {t t' : State} (h : SameButHidden t t') : OutcomesAgree (.next t) (.next t') :=
  ⟨fun _ ht => ⟨t', rfl, Host.Outcome.next.inj ht ▸ h⟩, fun _ hf => nomatch hf⟩

theorem outcomesAgree_fault (f : Fault) : OutcomesAgree (.fault f) (.fault f) :=
  ⟨fun _ ht => (nomatch ht), fun _ hf => hf⟩

/-! ### Accesses and the reset -/

section
variable (s : State) (h : Hidden) (k : Nat)

theorem issue_withHidden (v : Word) : (s.withHidden h k).issue v = (s.issue v).withHidden h k := by
  have hbusy : (s.withHidden h k).busy = s.busy := rfl
  unfold State.issue
  rw [hbusy]
  split
  · rfl
  · split <;> rfl

theorem readReg_withHidden (r : Reg) : (s.withHidden h k).readReg r = (s.readReg r).withHidden h k := by
  cases r with
  | id => rfl
  | cmd => rfl
  | status => rfl
  | s i =>
    have hbusy : (s.withHidden h k).busy = s.busy := rfl
    simp only [State.readReg, hbusy]
    split <;> rfl

theorem writeReg_withHidden (v : Word) (r : Reg) :
    (s.withHidden h k).writeReg v r = (s.writeReg v r).withHidden h k := by
  cases r with
  | id => rfl
  | cmd => exact issue_withHidden s h k v
  | status => rfl
  | s i =>
    have hbusy : (s.withHidden h k).busy = s.busy := rfl
    simp only [State.writeReg, hbusy]
    split
    · rfl
    · split <;> rfl

theorem access_withHidden (a : Access) : (s.withHidden h k).access a = (s.access a).withHidden h k := by
  unfold State.access
  split
  · split
    · rfl
    · split
      · exact readReg_withHidden s h k _
      · exact writeReg_withHidden s h k _ _
  · rfl

end

section
variable {s s' : State} (h : SameButHidden s s')
include h

theorem popEvent_agree : SameButHidden s.popEvent s'.popEvent :=
  ⟨h.S, h.cmd, h.busy, h.done, h.err, h.errcode, h.pending, congrArg List.tail h.agenda, h.responses⟩

theorem access_agree (a : Access) : SameButHidden (s.access a) (s'.access a) := by
  rw [h.eq_withHidden, access_withHidden]
  exact sameButHidden_withHidden _ _ _

theorem resetBlock_agree : SameButHidden s.resetBlock s'.resetBlock :=
  ⟨rfl, rfl, rfl, rfl, rfl, rfl, rfl, h.agenda, h.responses⟩

/-! ### The engine's turn -/

/-- A completion writes the result and the handshake, and keeps the rest. -/
theorem completed_agree {t t' : State} (ht : CompletedFrom s t) (ht' : CompletedFrom s' t') (hS : t'.S = t.S) :
    SameButHidden t t' where
  S := hS
  cmd := by rw [ht.cmd, ht'.cmd, h.cmd]
  busy := by rw [ht.busy, ht'.busy]
  done := by rw [ht.done, ht'.done]
  err := by rw [ht.err, ht'.err, h.err]
  errcode := by rw [ht.errcode, ht'.errcode, h.errcode]
  pending := by rw [ht.pending, ht'.pending]
  agenda := by rw [ht.agenda, ht'.agenda, h.agenda]
  responses := by rw [ht.responses, ht'.responses, h.responses]

theorem exec_agree (i : Instr) : OutcomesAgree (exec i s) (exec i s') := by
  cases hres : commandResult Config.rom s.S i with
  | none =>
    rw [exec_of_no_result hres, exec_of_no_result (h.S ▸ hres)]
    exact outcomesAgree_fault _
  | some v =>
    obtain ⟨t, ht, hdone, hS⟩ := exec_of_result hres
    obtain ⟨t', ht', hdone', hS'⟩ := exec_of_result (s := s') (h.S ▸ hres)
    rw [ht, ht']
    exact outcomesAgree_next (completed_agree h hdone hdone' (hS'.trans hS.symm))

theorem engineTurn_agree : OutcomesAgree (engineTurn s) (engineTurn s') := by
  unfold engineTurn
  rw [h.pending]
  split
  · exact outcomesAgree_next h
  · split
    · exact exec_agree h _
    · exact outcomesAgree_fault _

theorem step_agree : OutcomesAgree (step s) (step s') := by
  rcases ha : s.agenda with _ | ⟨a | _ | _, rest⟩ <;> have ha' := h.agenda.trans ha
  · rw [step_nil ha, step_nil ha']
    exact engineTurn_agree h
  · rw [step_access ha, step_access ha']
    exact outcomesAgree_next (access_agree (popEvent_agree h) a)
  · rw [step_complete ha, step_complete ha']
    exact engineTurn_agree (popEvent_agree h)
  · rw [step_reset ha, step_reset ha']
    exact outcomesAgree_next (resetBlock_agree (popEvent_agree h))

end

/-- Settles O59: each kind of step reads the fields on which the two states agree. -/
theorem hiddenStateIsNeverObserved : Obligations.HiddenStateIsNeverObserved := fun _ _ h => step_agree h

end Sys2Proof.Machine
end

section
/-! Subtraction (40_field_arithmetic.md R82) and the two S-boxes on integers (41_sbox_engine.md R100 to R106): a
canonical word whose field element is a power is that power modulo p. -/

namespace Sys2Proof.Machine

/-! ### Subtraction -/

theorem fsub_toNat (a b : Word) : ((fsub a b).toNat : Int) = ((a.toNat : Int) - (b.toNat : Int)) % (Config.P : Int) := by
  have hnonneg : 0 ≤ ((a.toNat : Int) - (b.toNat : Int)) % (Config.P : Int) := Int.emod_nonneg _ (by norm_num)
  rw [fsub, reduce_toNat, Int.natCast_mod, Int.toNat_of_nonneg hnonneg, Int.emod_emod]

theorem fadd_fsub {a : Word} (ha : Canonical a) (b : Word) : fadd (fsub a b) b = a :=
  canonical_ext (fadd_canonical _ _) ha (by rw [felt_fadd, felt_fsub, sub_add_cancel])

/-! ### Powers of one word -/

theorem toNat_of_felt_eq_pow {x y : Word} (hy : Canonical y) {n : Nat} (h : felt y = felt x ^ n) :
    y.toNat = x.toNat ^ n % Config.P :=
  canonical_toNat hy (by rw [h, felt, Nat.cast_pow])

theorem sbox_toNat (x : Word) : (sbox x).toNat = x.toNat ^ Config.alpha % Config.P :=
  toNat_of_felt_eq_pow (sbox_canonical x) (felt_sbox x)

theorem invSboxChain_toNat (x : Word) : (invSboxChain x).toNat = x.toNat ^ Config.invAlpha % Config.P :=
  toNat_of_felt_eq_pow (invSboxChain_canonical x) (felt_invSboxChain x)

/-- The exponent as the literal that the statements write. -/
theorem invSboxChain_toNat_e (x : Word) : (invSboxChain x).toNat = x.toNat ^ 10540996611094048183 % Config.P := by
  simpa only [Config.invAlpha] using invSboxChain_toNat x

theorem fsq_eq_fpow (x : Word) : fsq x = fpow x 2 :=
  canonical_ext (fsq_canonical _) (fpow_canonical _ _) (by rw [felt_fsq, felt_fpow])

theorem fsq_fpow (x : Word) (m : Nat) : fsq (fpow x m) = fpow x (m * 2) :=
  canonical_ext (fsq_canonical _) (fpow_canonical _ _) (by rw [felt_fsq, felt_fpow, felt_fpow, pow_mul])

theorem fmul_fpow (x : Word) (m n : Nat) : fmul (fpow x m) (fpow x n) = fpow x (m + n) :=
  canonical_ext (fmul_canonical _ _) (fpow_canonical _ _) (by simp only [felt_fmul, felt_fpow, pow_add])

theorem expAcc_canonical (b t : Word) (n : Nat) : Canonical (expAcc b t n) := fmul_canonical _ _

theorem expAcc_fpow (x : Word) (m k n : Nat) : expAcc (fpow x m) (fpow x k) n = fpow x (m * 2 ^ n + k) :=
  canonical_ext (expAcc_canonical _ _ _) (fpow_canonical _ _) (by
    rw [felt_expAcc, felt_fpow, felt_fpow, felt_fpow, pow_add, pow_mul])

theorem expAcc_toNat (b t : Word) (n : Nat) : (expAcc b t n).toNat = b.toNat ^ 2 ^ n * t.toNat % Config.P :=
  canonical_toNat (expAcc_canonical _ _ _) (by rw [felt_expAcc, felt, felt, Nat.cast_mul, Nat.cast_pow])

/-! ### The counted pieces of the schedule -/

theorem counted_sbox (x : Word) : Counted.sbox x = ⟨sbox x, 2, 2, 0⟩ := rfl

theorem counted_sqTimes (b : Word) : ∀ n : Nat, Counted.sqTimes b n = ⟨fsqTimes b n, n, 0, 0⟩
  | 0 => rfl
  | n + 1 => by
    rw [Counted.sqTimes, counted_sqTimes b n]
    rfl

theorem counted_expAcc (b t : Word) (n : Nat) : Counted.expAcc b t n = ⟨expAcc b t n, n, 1, 0⟩ := by
  rw [Counted.expAcc, counted_sqTimes]
  rfl

/-! ### The obligations -/

/-- Settles O2: the difference is taken in the integers and reduced once. -/
theorem fieldSubtractionIsExact : Obligations.FieldSubtractionIsExact :=
  ⟨fsub_toNat, fun _ b ha => fadd_fsub ha b, by decide, by decide⟩

/-- Settles O5: the three orders of the product are one product by commutativity and associativity. -/
theorem forwardSboxIsSeventhPower : Obligations.ForwardSboxIsSeventhPower := by
  intro x
  have hassoc : sbox x = fmul x (fmul (fsq x) (fsq (fsq x))) := fmul_assoc _ _ _
  refine ⟨sbox_toNat x, sbox_eq_fpow x, rfl, hassoc, ?_, counted_sbox x⟩
  rw [hassoc, fmul_comm (fsq x), fmul_assoc]

/-- Settles O6: the value over ZMod p is `felt_expAcc`, and the count is that of n squarings and one product. -/
theorem expAccSquaresThenMultiplies : Obligations.ExpAccSquaresThenMultiplies := by
  intro b t n
  rw [counted_expAcc]
  exact ⟨expAcc_toNat b t n, rfl, rfl⟩

/-- Settles O7: each line of the schedule is a square, a product or an `expAcc` of powers of x, so its exponent is
computed from those before it. -/
theorem inverseSboxChainIsPowerE : Obligations.InverseSboxChainIsPowerE := by
  intro x t1 t2 t3 t4 t5 t6 t7 a b
  have h1 : t1 = fpow x 2 := fsq_eq_fpow x
  have h2 : t2 = fpow x 4 := (congrArg fsq h1).trans (fsq_fpow x 2)
  have h3 : t3 = fpow x 36 := by
    simp only [t3, h2, expAcc_fpow]
    norm_num
  have h4 : t4 = fpow x 2340 := by
    simp only [t4, h3, expAcc_fpow]
    norm_num
  have h5 : t5 = fpow x 9586980 := by
    simp only [t5, h4, expAcc_fpow]
    norm_num
  have h6 : t6 = fpow x 613566756 := by
    simp only [t6, h5, h3, expAcc_fpow]
    norm_num
  have h7 : t7 = fpow x 1317624576079972644 := by
    simp only [t7, h6, expAcc_fpow]
    norm_num
  have ha : a = fpow x 10540996611094048176 := by
    simp only [a, h7, h6, fsq_fpow, fmul_fpow]
  have hb : b = fpow x 7 := by
    refine canonical_ext (fmul_canonical _ _) (fpow_canonical _ _) ?_
    simp only [b, h1, h2, felt_fmul, felt_fpow, ← pow_add, ← pow_succ]
  exact ⟨h1, h2, h3, h4, h5, h6, h7, ha, hb, rfl, invSboxChain_eq_invSbox x, invSboxChain_toNat_e x⟩

end Sys2Proof.Machine
end

section
/-! The matrix-vector product as a sum in the field (42_linear_diffusion.md R120), the block's tables (10_state.md R30,
R31), and what the counted functions spend (41_sbox_engine.md R105, 70_reset_and_hazards.md R237): each piece computes
its own function at a fixed cost, and costs add up along a fold and over the twelve lanes. -/

namespace Sys2Proof.Machine

/-! ### Sums by fadd -/

section
variable {ι : Type} (f : ι → Word) (l : List ι)

theorem foldl_fadd_canonical {acc : Word} (h : Canonical acc) : Canonical (l.foldl (fun y j => fadd y (f j)) acc) := by
  induction l generalizing acc with
  | nil => exact h
  | cons j l ih => exact ih (fadd_canonical _ _)

theorem felt_foldl_fadd (acc : Word) :
    felt (l.foldl (fun y j => fadd y (f j)) acc) = felt acc + (l.map fun j => felt (f j)).sum := by
  induction l generalizing acc with
  | nil => simp
  | cons j l ih => rw [List.foldl_cons, ih, felt_fadd, List.map_cons, List.sum_cons, add_assoc]

end

theorem matvec_get_toNat (M : Fin 12 → Fin 12 → Word) (S : Vec) (i : Fin 12) :
    ((matvec M S)[i]).toNat = (∑ j : Fin 12, (M i j).toNat * (S[j]).toNat) % Config.P := by
  rw [matvec_get, reduce_toNat]

theorem matvec_eq_foldl (M : Fin 12 → Fin 12 → Word) (S : Vec) (i : Fin 12) :
    (matvec M S)[i] = (List.finRange 12).foldl (fun acc j => fadd acc (fmul (M i j) S[j])) 0 := by
  refine canonical_ext (matvec_canonical M S i) (foldl_fadd_canonical _ _ zero_canonical) ?_
  rw [felt_matvec, felt_foldl_fadd, Fin.sum_univ_def]
  simp

/-- The sum may start from the first product instead of from 0. -/
theorem matvec_eq_foldl_succ (M : Fin 12 → Fin 12 → Word) (S : Vec) (i : Fin 12) :
    (matvec M S)[i] = (List.finRange 11).foldl (fun acc j => fadd acc (fmul (M i j.succ) S[j.succ]))
      (fmul (M i 0) S[(0 : Fin 12)]) := by
  rw [matvec_eq_foldl, List.finRange_succ, List.foldl_cons, List.foldl_map, fadd_comm, fadd_zero (fmul_canonical _ _)]

/-! ### The tables -/

/-- The tables with MDS and INV_MDS in each other's place. -/
def swapDiffusion (R : Config.Rom) : Config.Rom := { R with mds := R.invMds, invMds := R.mds }

/-- A left inverse of a square matrix is a right inverse, so the swapped tables are lawful too. -/
theorem law_swapped {R : Config.Rom} (h : R.Law) (i k : Fin 12) :
    (∑ j : Fin 12, (R.mds i j).toNat * (R.invMds j k).toNat) % Config.P = if i = k then 1 else 0 := by
  have hmul : feltMatrix R.mds * feltMatrix R.invMds = 1 := mul_eq_one_comm.mp ((law_iff R).mp h)
  have hlaw : (swapDiffusion R).Law := (law_iff (swapDiffusion R)).mpr hmul
  exact hlaw i k

theorem rom_canonical : Config.rom.Canonical :=
  ⟨fun _ _ => canonicalWord_canonical _, fun _ _ => canonicalWord_canonical _, fun _ _ => canonicalWord_canonical _,
    fun _ _ => canonicalWord_canonical _⟩

/-! ### Costs -/

/-- A fold whose every step computes g at one and the same cost. -/
theorem counted_foldl {ι α : Type} {f : ι → α → Counted α} {g : ι → α → α} {a b c : Nat}
    (h : ∀ j x, f j x = ⟨g j x, a, b, c⟩) (l : List ι) (acc : Counted α) :
    l.foldl (fun acc j => acc.bind (f j)) acc =
      ⟨l.foldl (fun x j => g j x) acc.val, acc.sqs + l.length * a, acc.muls + l.length * b,
        acc.adds + l.length * c⟩ := by
  induction l generalizing acc with
  | nil => simp
  | cons j l ih =>
    rw [List.foldl_cons, ih, Counted.bind, h]
    simp only [List.foldl_cons, List.length_cons, Nat.succ_mul, Nat.add_assoc, Nat.add_comm (_ * _)]

/-- Twelve lanes, each of which computes g at one and the same cost. -/
theorem counted_lanes {f : Fin 12 → Counted Word} {g : Fin 12 → Word} {a b c : Nat}
    (h : ∀ i, f i = ⟨g i, a, b, c⟩) :
    Counted.lanes (Vector.ofFn f) = ⟨Vector.ofFn g, 12 * a, 12 * b, 12 * c⟩ := by
  obtain rfl : f = fun i => ⟨g i, a, b, c⟩ := funext h
  simp [Counted.lanes, Vector.toList_ofFn, Function.comp_def]
  omega

theorem counted_map {f : Word → Counted Word} {g : Word → Word} {a b c : Nat} (h : ∀ x, f x = ⟨g x, a, b, c⟩)
    (S : Vec) : Counted.lanes (S.map f) = ⟨S.map g, 12 * a, 12 * b, 12 * c⟩ := by
  have hmap {α : Type} (k : Word → α) : S.map k = Vector.ofFn fun i : Fin 12 => k S[i] := by
    ext i hi
    simp
  rw [hmap, hmap, counted_lanes fun i => h S[i]]

theorem counted_invSboxChain (x : Word) : Counted.invSboxChain x = ⟨invSboxChain x, 63, 9, 0⟩ := by
  simp only [Counted.invSboxChain, counted_expAcc, Counted.bind, Counted.sq, Counted.mul, invSboxChain]

theorem counted_row (M : Fin 12 → Fin 12 → Word) (S : Vec) (i : Fin 12) :
    Counted.row (M i) S = ⟨(matvec M S)[i], 0, 12, 11⟩ := by
  have hfold := counted_foldl
    (f := fun (j : Fin 11) (y : Word) => (Counted.mul (M i j.succ) S[j.succ]).bind fun z => Counted.add y z)
    (g := fun j y => fadd y (fmul (M i j.succ) S[j.succ])) (a := 0) (b := 1) (c := 1) (fun _ _ => rfl)
    (List.finRange 11) (Counted.mul (M i 0) S[(0 : Fin 12)])
  rw [Counted.row, hfold, matvec_eq_foldl_succ, List.length_finRange]
  rfl

theorem counted_sboxVec (S : Vec) : Counted.sboxVec S = ⟨sboxVec S, 24, 24, 0⟩ := counted_map counted_sbox S

theorem counted_invSboxVec (S : Vec) : Counted.invSboxVec S = ⟨invSboxVec S, 756, 108, 0⟩ :=
  counted_map counted_invSboxChain S

theorem counted_matvec (M : Fin 12 → Fin 12 → Word) (S : Vec) : Counted.matvec M S = ⟨matvec M S, 0, 144, 132⟩ := by
  have hget : Vector.ofFn (fun i : Fin 12 => (matvec M S)[i]) = matvec M S := by
    ext i hi
    simp
  rw [Counted.matvec, counted_lanes (counted_row M S), hget]

theorem counted_arkVec (T : Fin 7 → Fin 12 → Word) (r : Fin 7) (S : Vec) :
    Counted.arkVec T r S = ⟨arkVec T r S, 0, 0, 12⟩ :=
  counted_lanes fun _ => rfl

theorem counted_roundVec (R : Config.Rom) (r : Fin 7) (S : Vec) :
    Counted.roundVec R r S = ⟨roundVec R r S, 780, 420, 288⟩ := by
  simp only [Counted.roundVec, counted_sboxVec, counted_matvec, counted_arkVec, counted_invSboxVec,
    Counted.bind, roundVec]

theorem counted_permuteVec (R : Config.Rom) (S : Vec) :
    Counted.permuteVec R S = ⟨permuteVec R S, 5460, 2940, 2016⟩ := by
  rw [Counted.permuteVec, counted_foldl (counted_roundVec R), List.length_finRange]
  simp only [Counted.pure, permuteVec]

theorem counted_mergeVec (R : Config.Rom) (S : Vec) : Counted.mergeVec R S = ⟨mergeVec R S, 5460, 2940, 2016⟩ :=
  counted_permuteVec R (mergeInit S)

/-! ### The obligations -/

/-- Settles O8: each counted function is its machine's function at a fixed cost. -/
theorem operationCountsOfCommands : Obligations.OperationCountsOfCommands := by
  refine ⟨counted_invSboxChain, fun S => ?_, fun S => ?_, fun M S => ?_, fun T r S => ?_, fun R r S => ?_,
    fun R S => ?_, fun R S => ?_⟩
  · rw [counted_sboxVec]; exact ⟨rfl, rfl, rfl⟩
  · rw [counted_invSboxVec]; exact ⟨rfl, rfl, rfl⟩
  · rw [counted_matvec]; exact ⟨rfl, rfl, rfl⟩
  · rw [counted_arkVec]; exact ⟨rfl, rfl, rfl⟩
  · rw [counted_roundVec]; exact ⟨rfl, rfl, rfl⟩
  · rw [counted_permuteVec]; exact ⟨rfl, rfl, rfl⟩
  · rw [counted_mergeVec]; exact ⟨rfl, rfl, rfl⟩

/-- Settles O12: the one reduction and the reduction after each operation give the same field element. -/
theorem matrixVectorProduct : Obligations.MatrixVectorProduct := fun M S i =>
  ⟨matvec_get_toNat M S i, matvec_eq_foldl M S i, counted_row M S i⟩

/-- Settles O14: every entry is a `canonicalWord`, and the law holds on either side (`law_swapped`). -/
theorem tablesAreCanonicalAndLawful : Obligations.TablesAreCanonicalAndLawful :=
  ⟨rom_canonical, rom_law, law_swapped rom_law⟩

end Sys2Proof.Machine
end

section
/-! The commands complete (30_encoding.md R68): each answers a next state whose S is its own function of the old S, and
the round and the permutation are those functions read on integers (43_permutation_round.md R143 to R146, R149). -/

namespace Sys2Proof.Machine

/-! ### One half of a round on integers -/

/-- Raise every lane to the power n, multiply by a table and add a row: on integers one sum and one reduction. -/
theorem ark_matvec_map_toNat (M : Fin 12 → Fin 12 → Word) (T : Fin 7 → Fin 12 → Word) (r : Fin 7) {f : Word → Word}
    {n : Nat} (hf : ∀ x, felt (f x) = felt x ^ n) (S : Vec) (i : Fin 12) :
    ((arkVec T r (matvec M (S.map f)))[i]).toNat =
      (∑ j : Fin 12, (M i j).toNat * (S[j]).toNat ^ n + (T r i).toNat) % Config.P := by
  have hlane (j : Fin 12) : felt (S.map f)[j] = felt S[j] ^ n := by
    rw [← hf]
    simp
  refine canonical_toNat (arkVec_canonical T r _ i) ?_
  rw [arkVec_get, felt_fadd, felt_matvec]
  simp only [hlane]
  simp only [felt, Nat.cast_add, Nat.cast_sum, Nat.cast_mul, Nat.cast_pow]

theorem nats_firstHalf (R : Config.Rom) (r : Fin 7) (S : Vec) :
    Spec.nats (arkVec R.ark1 r (matvec R.mds (sboxVec S))) = Spec.firstHalf R r (Spec.nats S) :=
  funext fun i => ark_matvec_map_toNat R.mds R.ark1 r felt_sbox S i

theorem nats_secondHalf (R : Config.Rom) (r : Fin 7) (S : Vec) :
    Spec.nats (arkVec R.ark2 r (matvec R.mds (invSboxVec S))) = Spec.secondHalf R r (Spec.nats S) :=
  funext fun i => ark_matvec_map_toNat R.mds R.ark2 r felt_invSboxChain S i

theorem nats_roundVec (R : Config.Rom) (r : Fin 7) (S : Vec) :
    Spec.nats (roundVec R r S) = Spec.round R r (Spec.nats S) := by
  rw [roundVec, nats_secondHalf, nats_firstHalf, Spec.round]

theorem nats_permuteVec (R : Config.Rom) (S : Vec) :
    Spec.nats (permuteVec R S) = Spec.permute R (Spec.nats S) := by
  simp only [permuteVec_eq, nats_roundVec, Spec.permute]

theorem nats_mergeInit (S : Vec) : Spec.nats (mergeInit S) = Spec.mergeInit (Spec.nats S) := by
  funext i
  rw [Spec.nats, mergeInit_get, Spec.mergeInit]
  split_ifs <;> rfl

theorem nats_mergeVec (R : Config.Rom) (S : Vec) :
    Spec.nats (mergeVec R S) = Spec.permute R (Spec.mergeInit (Spec.nats S)) := by
  rw [mergeVec, nats_permuteVec, nats_mergeInit]

/-! ### Rounds are bijections -/

theorem roundInvVec_canonical (R : Config.Rom) (r : Fin 7) (N : Vec) : CanonicalVec (roundInvVec R r N) :=
  invSboxVec_canonical _

section
variable {R : Config.Rom} (hR : R.Law) (r : Fin 7) {S : Vec} (hS : CanonicalVec S)
include hR hS

theorem roundInvVec_roundVec : roundInvVec R r (roundVec R r S) = S := by
  rw [roundInvVec, roundVec, unarkVec_arkVec _ _ (matvec_canonical _ _), matvec_invMds_mds hR (invSboxVec_canonical _),
    sboxVec_invSboxVec (arkVec_canonical _ _ _), unarkVec_arkVec _ _ (matvec_canonical _ _),
    matvec_invMds_mds hR (sboxVec_canonical _), invSboxVec_sboxVec hS]

theorem roundVec_roundInvVec : roundVec R r (roundInvVec R r S) = S := by
  rw [roundVec, roundInvVec, sboxVec_invSboxVec (matvec_canonical _ _), matvec_mds_invMds hR (unarkVec_canonical _ _ _),
    arkVec_unarkVec _ _ (sboxVec_canonical _), invSboxVec_sboxVec (matvec_canonical _ _),
    matvec_mds_invMds hR (unarkVec_canonical _ _ _), arkVec_unarkVec _ _ hS]

end

theorem roundVec_bijOn {R : Config.Rom} (hR : R.Law) (r : Fin 7) :
    Set.BijOn (roundVec R r) {S | CanonicalVec S} {S | CanonicalVec S} :=
  Set.InvOn.bijOn ⟨fun _ => roundInvVec_roundVec hR r, fun _ => roundVec_roundInvVec hR r⟩
    (fun S _ => roundVec_canonical R r S) (fun N _ => roundInvVec_canonical R r N)

theorem permuteVec_bijOn {R : Config.Rom} (hR : R.Law) :
    Set.BijOn (permuteVec R) {S | CanonicalVec S} {S | CanonicalVec S} := by
  have h := roundVec_bijOn hR
  exact (h 6).comp ((h 5).comp ((h 4).comp ((h 3).comp ((h 2).comp ((h 1).comp (h 0))))))

/-! ### The obligations -/

/-- Settles O10: SBOX finishes with `sboxVec`. -/
theorem sboxCompletes : Obligations.SboxCompletes := fun s =>
  ⟨_, exec_sbox s, fun i => by rw [State.finish_S, sboxVec_get, sbox_toNat, Config.alpha],
    finish_completedFrom _ _, rfl, rfl⟩

/-- Settles O11: INV_SBOX uses the chain's temporaries and finishes with `invSboxVec`. -/
theorem invSboxCompletes : Obligations.InvSboxCompletes := fun s =>
  ⟨_, exec_invSbox s, fun i => by rw [State.finish_S, invSboxVec_get, invSboxChain_toNat_e],
    (exec_next_cases (exec_invSbox s)).1, rfl, rfl⟩

/-- Settles O16: MDS_MUL finishes with the product by MDS. -/
theorem mdsMulCompletes : Obligations.MdsMulCompletes := fun s =>
  ⟨_, exec_mdsMul s, matvec_get_toNat _ _, finish_completedFrom _ _, rfl, rfl⟩

/-- Settles O17: INV_MDS_MUL finishes with the product by INV_MDS. -/
theorem invMdsMulCompletes : Obligations.InvMdsMulCompletes := fun s =>
  ⟨_, exec_invMdsMul s, matvec_get_toNat _ _, finish_completedFrom _ _, rfl, rfl⟩

/-- Settles O18: each of the two commands finishes with the addition of its own table's row. -/
theorem addArkCompletes : Obligations.AddArkCompletes := fun r h s =>
  ⟨⟨_, exec_addArk1 h s, fun i => by rw [State.finish_S, arkVec_get, fadd_toNat], finish_completedFrom _ _, rfl, rfl⟩,
    ⟨_, exec_addArk2 h s, fun i => by rw [State.finish_S, arkVec_get, fadd_toNat], finish_completedFrom _ _, rfl,
      rfl⟩⟩

/-- Settles O19: ROUND r finishes with `roundVec`, which is the round on integers (`nats_roundVec`). -/
theorem roundCompletes : Obligations.RoundCompletes := fun _ h s =>
  ⟨_, exec_round h s, nats_roundVec _ _ _, (exec_next_cases (exec_round h s)).1, rfl⟩

/-- Settles O20: PERMUTE finishes with the seven rounds. -/
theorem permuteCompletes : Obligations.PermuteCompletes := fun s =>
  ⟨_, exec_permute s, nats_permuteVec _ _, (exec_next_cases (exec_permute s)).1⟩

/-- Settles O21: the operand 7 has no result, and a decoded command is well formed. -/
theorem illFormedRoundStops : Obligations.IllFormedRoundStops := by
  refine ⟨fun r s h => ?stops, fun v r h => ?decodes⟩
  case stops =>
    have hnone := roundIndex_eq_none h
    refine ⟨exec_of_no_result ?_, exec_of_no_result ?_, exec_of_no_result ?_⟩ <;> simp [commandResult, hnone]
  case decodes =>
    have hill : roundInRange r ≠ true := by simpa [roundInRange] using h
    exact ⟨fun hd => hill (encode_decode hd).2, fun hd => hill (encode_decode hd).2,
      fun hd => hill (encode_decode hd).2⟩

/-- Settles O23: the six steps of a round are undone one by one, and a composition of bijections is one. -/
theorem roundAndPermuteAreBijections : Obligations.RoundAndPermuteAreBijections := by
  refine fun R hR => ⟨fun r S hS => ⟨roundInvVec_roundVec hR r hS, roundVec_roundInvVec hR r hS,
    roundInvVec_canonical R r S⟩, fun N hN => ?permute⟩
  case permute =>
    obtain ⟨-, hinj, hsurj⟩ := permuteVec_bijOn hR
    obtain ⟨S, hS, hSN⟩ := hsurj hN
    exact ⟨S, ⟨hS, hSN⟩, fun T ⟨hT, hTN⟩ => hinj hT hS (hTN.trans hSN.symm)⟩

/-- Settles O25: MERGE finishes with the permutation of `mergeInit`. -/
theorem mergeCompletes : Obligations.MergeCompletes := fun s =>
  ⟨_, exec_merge s, nats_mergeVec _ _, (exec_next_cases (exec_merge s)).1⟩

/-- Settles O28: NOP finishes with S itself. -/
theorem nopCompletes : Obligations.NopCompletes := fun s =>
  ⟨s.finish s.S, rfl, rfl, finish_completedFrom _ _, rfl, rfl⟩

/-- Settles O29: CLEAR finishes with the zero vector. -/
theorem clearCompletes : Obligations.ClearCompletes := fun s =>
  ⟨s.finish (Vector.replicate 12 0), rfl, fun i => by simp, finish_completedFrom _ _, rfl, rfl⟩

end Sys2Proof.Machine
end

section
/-! The register window as bytes (20_memory.md R40 to R42): which register an offset's byte belongs to, the lanes of a
word, and from them the frames of the commands and of an element write; then the words of STATUS and ID (10_state.md R27,
R29). -/

namespace Sys2Proof.Machine

/-! ### Offsets and registers -/

theorem regAt_eq_some_iff (off : BitVec 8) (r : Reg) : regAt off = some r ↔ off.toNat = r.off.toNat :=
  ⟨fun h => congrArg BitVec.toNat (off_of_regAt h), fun h => by rw [BitVec.eq_of_toNat_eq h, regAt_off]⟩

theorem off_s_toNat (i : Fin 12) : (Reg.s i).off.toNat = 0x40 + 8 * i.val := by
  simp only [Reg.off, BitVec.toNat_ofNat]
  omega

/-- Every register stands at one of the three control offsets or in the range of S[0..11], aligned to eight bytes
(R41). -/
theorem off_cases (r : Reg) :
    (r = .id ∧ r.off.toNat = 0x00) ∨ (r = .cmd ∧ r.off.toNat = 0x08) ∨ (r = .status ∧ r.off.toNat = 0x10) ∨
    ∃ i, r = .s i ∧ r.off.toNat = 0x40 + 8 * i.val := by
  cases r with
  | id => exact .inl ⟨rfl, rfl⟩
  | cmd => exact .inr (.inl ⟨rfl, rfl⟩)
  | status => exact .inr (.inr (.inl ⟨rfl, rfl⟩))
  | s i => exact .inr (.inr (.inr ⟨i, rfl, off_s_toNat i⟩))

theorem wordOffset_toNat (off : BitVec 8) : (wordOffset off).toNat = off.toNat / 8 * 8 := by
  revert off
  decide

/-- The register whose eight bytes contain the offset. -/
theorem regAt_wordOffset_iff (off : BitVec 8) (r : Reg) :
    regAt (wordOffset off) = some r ↔ off.toNat / 8 * 8 = r.off.toNat := by
  rw [regAt_eq_some_iff, wordOffset_toNat]

/-! ### One byte of the window -/

theorem windowByte_of_reg (s : State) {off : BitVec 8} {r : Reg} (h : regAt (wordOffset off) = some r) :
    s.windowByte off = some (laneOf (s.regValue r) (off.toNat % 8)) := by
  rw [State.windowByte, h, Option.map_some]

theorem windowByte_none (s : State) {off : BitVec 8} (h : ∀ r : Reg, off.toNat / 8 * 8 ≠ r.off.toNat) :
    s.windowByte off = none := by
  have hreg : regAt (wordOffset off) = none :=
    Option.eq_none_iff_forall_ne_some.mpr fun r hr => h r ((regAt_wordOffset_iff off r).mp hr)
  rw [State.windowByte, hreg, Option.map_none]

/-- A byte is kept where its register is. -/
theorem windowByte_congr {s t : State} {off : BitVec 8}
    (h : ∀ r : Reg, off.toNat / 8 * 8 = r.off.toNat → t.regValue r = s.regValue r) :
    t.windowByte off = s.windowByte off := by
  cases hr : regAt (wordOffset off) with
  | none => rw [State.windowByte, State.windowByte, hr, Option.map_none, Option.map_none]
  | some r => rw [windowByte_of_reg t hr, windowByte_of_reg s hr, h r ((regAt_wordOffset_iff off r).mp hr)]

/-! ### The lanes of a word -/

theorem laneOf_eq (v : Word) (k : Nat) : laneOf v k = BitVec.ofNat 8 (v.toNat / 256 ^ k) := by
  apply BitVec.eq_of_toNat_eq
  have hpow : (2 : Nat) ^ (8 * k) = 256 ^ k := by norm_num [pow_mul]
  rw [laneOf, BitVec.extractLsb'_toNat, Nat.shiftRight_eq_div_pow, hpow, BitVec.toNat_ofNat]

/-- Lanes are digits to the base 256. -/
theorem lanesToNat_digits (n m : Nat) :
    lanesToNat ((List.range n).map fun k => BitVec.ofNat 8 (m / 256 ^ k)) = m % 256 ^ n := by
  induction n generalizing m with
  | zero => simp [lanesToNat, Nat.mod_one]
  | succ n ih =>
    have hdiv (k : Nat) : m / 256 ^ (k + 1) = m / 256 / 256 ^ k := by rw [Nat.div_div_eq_div_mul, pow_succ']
    rw [List.range_succ_eq_map, List.map_cons, List.map_map, lanesToNat, pow_succ', Nat.mod_mul, ← ih (m / 256)]
    simp [Function.comp_def, hdiv]

theorem wordOfLanes_lanesOf (v : Word) : wordOfLanes (lanesOf v) = v := by
  have hlanes : lanesToNat (lanesOf v) = v.toNat % 256 ^ 8 := by
    rw [← lanesToNat_digits, lanesOf, funext (laneOf_eq v)]
  apply BitVec.eq_of_toNat_eq
  rw [wordOfLanes, hlanes, BitVec.toNat_ofNat]
  have := v.isLt
  omega

theorem decodeBytes_lanesOf_ok_iff (v : Word) (i : Instr) : decodeBytes (lanesOf v) = .ok i ↔ decode v = .ok i := by
  have hlen : (lanesOf v).length = 8 := rfl
  rw [decodeBytes, if_pos hlen, wordOfLanes_lanesOf]
  cases decode v <;> simp

/-! ### STATUS and ID -/

/-- STATUS is ERRCODE with four bits put below it one after another. -/
theorem statusWord_toNat (s : State) :
    s.statusWord.toNat = s.busy.toNat + 2 * s.done.toNat + 4 * s.err.toNat + 16 * s.errcode.toNat := by
  have hbit {n : Nat} (x : BitVec n) (b : Bool) : (x ++ BitVec.ofBool b).toNat = x.toNat * 2 + b.toNat :=
    BitVec.toNat_concat x b
  have hzero : (0#56 ++ s.errcode ++ 0#1).toNat = s.errcode.toNat * 2 := by
    rw [show (0#1 : BitVec 1) = BitVec.ofBool false from rfl, hbit, BitVec.toNat_append]
    simp
  rw [State.statusWord, hbit, hbit, hbit, hzero]
  omega

theorem statusWord_eq (s : State) :
    s.statusWord = BitVec.ofNat 64 (s.busy.toNat + 2 * s.done.toNat + 4 * s.err.toNat + 16 * s.errcode.toNat) := by
  rw [← statusWord_toNat, BitVec.ofNat_toNat, BitVec.setWidth_eq]

/-! ### The obligations -/

/-- Settles O30: completions keep ID and CMD, NOP keeps S too, and no register covers a reserved offset. -/
theorem commandsLeaveTheRestOfTheWindow : Obligations.CommandsLeaveTheRestOfTheWindow := by
  refine ⟨fun i s t h off hstatus hS => windowByte_congr fun r hr => ?_,
    fun s off hoff => windowByte_none s fun r hr => ?_⟩
  · obtain ⟨hdone, hres⟩ := exec_next_cases h
    obtain ⟨rfl, ho⟩ | ⟨rfl, ho⟩ | ⟨rfl, ho⟩ | ⟨j, rfl, ho⟩ := off_cases r
    · rfl
    · exact hdone.cmd
    · omega
    · have hnop : i = .nop := by
        rcases hS with hS | hS | hS
        · omega
        · omega
        · exact hS
      subst hnop
      have hSt : t.S = s.S := (Option.some.inj hres).symm
      simp only [State.regValue, hSt]
  · obtain ⟨rfl, ho⟩ | ⟨rfl, ho⟩ | ⟨rfl, ho⟩ | ⟨j, rfl, ho⟩ := off_cases r <;> omega

/-- Settles O37: a register is named by its own offset only (`regAt_eq_some_iff`), and an address in the window is BASE
plus its offset. -/
theorem windowMapAndId : Obligations.WindowMapAndId := by
  refine ⟨rfl, rfl, rfl, fun off i => ?element, fun off hoff => ?reserved, fun _ => idWord_eq,
    Nat.mul_mod_right _ _, fun off => ?inside, fun addr haddr => ?outside⟩
  case element => rw [regAt_eq_some_iff, off_s_toNat]
  case reserved =>
    refine Option.eq_none_iff_forall_ne_some.mpr fun r hr => ?_
    have ho := (regAt_eq_some_iff off r).mp hr
    obtain ⟨-, ho'⟩ | ⟨-, ho'⟩ | ⟨-, ho'⟩ | ⟨i, -, ho'⟩ := off_cases r <;> omega
  case inside =>
    have hlt := off.isLt
    rw [windowOffset, if_pos (by omega), Nat.add_sub_cancel_left, BitVec.ofNat_toNat, BitVec.setWidth_eq]
  case outside => exact if_neg (by omega)

/-- Settles O38: an offset's byte is a lane of its register (`regAt_wordOffset_iff`), and lanes are digits
(`lanesToNat_digits`). -/
theorem byteLanesAreLittleEndian : Obligations.ByteLanesAreLittleEndian := by
  refine ⟨fun s r k hk => ?lane, wordOfLanes_lanesOf, by decide, fun bs h => if_neg h, decodeBytes_lanesOf_ok_iff⟩
  case lane =>
    have ho : r.off.toNat % 8 = 0 ∧ r.off.toNat ≤ 0x98 := by
      obtain ⟨-, ho⟩ | ⟨-, ho⟩ | ⟨-, ho⟩ | ⟨i, -, ho⟩ := off_cases r <;> omega
    have hoff : (BitVec.ofNat 8 (r.off.toNat + k)).toNat = r.off.toNat + k := by
      rw [BitVec.toNat_ofNat]
      omega
    have hreg : regAt (wordOffset (BitVec.ofNat 8 (r.off.toNat + k))) = some r := by
      rw [regAt_wordOffset_iff, hoff]
      omega
    have hlane : (r.off.toNat + k) % 8 = k := by omega
    rw [windowByte_of_reg s hreg, hoff, hlane, laneOf_eq]

/-- Settles O39: the word's fields are weighted by their places (`statusWord_toNat`). -/
theorem statusWordFields : Obligations.StatusWordFields := statusWord_toNat

/-- Settles O42: the accepted write is `setS`, which keeps every register but the one the excluded bytes belong to. -/
theorem elementWriteLeavesOtherBytes : Obligations.ElementWriteLeavesOtherBytes := by
  intro s i v hb hv off hoff
  have hwrite : s.access ⟨.write, BitVec.ofNat 8 (0x40 + 8 * i.val), 8, v⟩ = (s.setS i v).okayWrite :=
    access_store hb i hv
  rw [hwrite]
  refine windowByte_congr fun r hr => ?_
  obtain ⟨rfl, ho⟩ | ⟨rfl, ho⟩ | ⟨rfl, ho⟩ | ⟨j, rfl, ho⟩ := off_cases r
  · rfl
  · rfl
  · rfl
  · exact setS_S_of_ne s v fun hji => by
      subst hji
      omega

/-- Settles O45: the first two writes clear by `writeStatus` and leave the rest, and `issue` does not look at ERR. -/
theorem acknowledgeClearsTheRecord : Obligations.AcknowledgeClearsTheRecord := by
  refine ⟨fun s => ?ack, fun s => ?zero, fun s i herr hb hi => ?accepted⟩
  case ack =>
    have hwrite : s.access ⟨.write, 0x10, 8, 0x6⟩ = (s.writeStatus 0x6).okayWrite := access_write s .status 0x6
    rw [hwrite, writeStatus_eq]
    rfl
  case zero =>
    have hwrite : s.access ⟨.write, 0x10, 8, 0⟩ = (s.writeStatus 0).okayWrite := access_write s .status 0
    rw [hwrite, writeStatus_eq]
    rfl
  case accepted =>
    have hwrite : s.access ⟨.write, 0x08, 8, encode i⟩ = s.issue (encode i) := access_write s .cmd (encode i)
    dsimp only
    rw [hwrite, issue_accept hb (decode_encode hi)]
    exact ⟨rfl, rfl, herr, rfl⟩

end Sys2Proof.Machine
end

section
/-! Host scripts (30_encoding.md R70 to R74). Each event of a script is one step whose effect is known exactly
(`State.after`), so a script is run piece by piece: reads, element stores, and one command with its handshake. -/

namespace Sys2Proof.Machine

/-! ### One event of a script -/

/-- s with the agenda replaced and responses added. -/
def State.after (s : State) (rest : List Event) (rs : List Response) : State :=
  { s with agenda := rest, responses := s.responses ++ rs }

theorem after_after (s : State) (rest rest' : List Event) (rs rs' : List Response) :
    (s.after rest rs).after rest' rs' = s.after rest' (rs ++ rs') := by
  simp [State.after]

theorem after_nil {s : State} {rest : List Event} (h : s.agenda = rest) : s.after rest [] = s := by
  simp [State.after, ← h]

section
variable {s : State} {rest : List Event}

theorem popEvent_respond {e : Event} (h : s.agenda = e :: rest) (r : Response) :
    s.popEvent.respond r = s.after rest [r] := by
  simp [State.popEvent, State.respond, State.after, h]

/-- A read that BUSY does not refuse. -/
theorem step_rd {r : Reg} (h : s.agenda = rd r :: rest) (hr : ∀ i, r = .s i → s.busy = false) :
    step s = .next (s.after rest [⟨some (s.regValue r), true⟩]) := by
  have hread : s.popEvent.readReg r = s.popEvent.okayRead (s.regValue r) := readReg_okay hr
  rw [step_access h, access_read, hread]
  exact congrArg _ (popEvent_respond h _)

theorem step_cmd {i : Instr} (h : s.agenda = wr .cmd (encode i) :: rest) (hb : s.busy = false)
    (hi : i.wellFormed = true) : step s = .next ((s.accept (encode i)).after rest [⟨none, true⟩]) := by
  have hissue : s.popEvent.access ⟨.write, Reg.cmd.off, 8, encode i⟩ = (s.popEvent.accept (encode i)).okayWrite :=
    (access_write _ .cmd _).trans (issue_accept (s := s.popEvent) hb (decode_encode hi))
  rw [step_access h, hissue]
  exact congrArg _ (popEvent_respond (s := s.accept (encode i)) h _)

theorem step_store {i : Fin 12} {v : Word} (h : s.agenda = wr (.s i) v :: rest) (hb : s.busy = false)
    (hv : Canonical v) : step s = .next ((s.setS i v).after rest [⟨none, true⟩]) := by
  have hstore : s.popEvent.access ⟨.write, (Reg.s i).off, 8, v⟩ = (s.popEvent.setS i v).okayWrite :=
    access_store (s := s.popEvent) hb i hv
  rw [step_access h, hstore]
  exact congrArg _ (popEvent_respond (s := s.setS i v) h _)

end

/-! ### Reads in a row -/

theorem after_regValue (s : State) (rest : List Event) (rs : List Response) :
    (s.after rest rs).regValue = s.regValue := by
  funext r
  cases r <;> rfl

theorem runs_rds (l : List Reg) {s : State} {rest : List Event} (h : s.agenda = l.map rd ++ rest)
    (hl : ∀ r ∈ l, ∀ i, r = .s i → s.busy = false) :
    Runs l.length s (s.after rest (l.map fun r => ⟨some (s.regValue r), true⟩)) := by
  induction l generalizing s with
  | nil =>
    rw [List.map_nil, after_nil (rest := rest) h]
    exact runs_zero s
  | cons r l ih =>
    have hfirst := step_rd (rest := l.map rd ++ rest) h (hl r List.mem_cons_self)
    have hrest := ih (s := s.after (l.map rd ++ rest) [⟨some (s.regValue r), true⟩]) rfl
      fun r' hr' => hl r' (List.mem_cons_of_mem r hr')
    rw [after_after, after_regValue] at hrest
    exact runs_step hfirst hrest

/-! ### One command with its handshake (R72) -/

/-- The answers to `cmd` and `wait`: the accepted write, the polls that read BUSY, and the one that reads DONE, each with
the error record of s. -/
def handshakeResponses (s : State) (polls : Nat) : List Response :=
  [⟨none, true⟩] ++
    List.replicate polls ⟨some (BitVec.ofNat 64 (1 + 4 * s.err.toNat + 16 * s.errcode.toNat)), true⟩ ++
    [⟨some (BitVec.ofNat 64 (2 + 4 * s.err.toNat + 16 * s.errcode.toNat)), true⟩]

/-- What a host sees and finds after `cmd` and `wait` on an idle block s. -/
structure RanCommand (s : State) (i : Instr) (polls : Nat) (t : State) : Prop where
  result : commandResult Config.rom s.S i = some t.S
  cmd : t.cmd = encode i
  busy : t.busy = false
  done : t.done = true
  pending : t.pending = none
  err : t.err = s.err
  errcode : t.errcode = s.errcode
  responses : t.responses = s.responses ++ handshakeResponses s polls

/-- Every poll of `wait` before the completion reads the same word. -/
theorem runs_polls {s : State} {polls : Nat} {rest : List Event}
    (h : s.agenda = List.replicate polls (rd .status) ++ rest) :
    Runs polls s (s.after rest (List.replicate polls ⟨some s.statusWord, true⟩)) := by
  have hrun := runs_rds (List.replicate polls .status) (s := s) (rest := rest) (by rw [List.map_replicate, h]) (by simp)
  rw [List.length_replicate, List.map_replicate] at hrun
  exact hrun

theorem runs_runCmd {s : State} {i : Instr} {polls : Nat} {rest : List Event} (hb : s.busy = false)
    (hi : i.wellFormed = true) (h : s.agenda = runCmd i polls ++ rest) :
    ∃ t, Runs (polls + 3) s t ∧ RanCommand s i polls t ∧ t.agenda = rest := by
  obtain ⟨v, hv⟩ := commandResult_of_wellFormed Config.rom s.S hi
  have hcmd := step_cmd (rest := wait polls ++ rest) (by rw [h]; rfl) hb hi
  have hpolls := runs_polls (s := (s.accept (encode i)).after (wait polls ++ rest) [⟨none, true⟩])
    (polls := polls) (rest := .complete :: rd .status :: rest) (List.append_assoc _ _ _)
  rw [after_after] at hpolls
  -- The engine's turn runs the command on the registers it was accepted with.
  obtain ⟨u, hu, hdone, hS⟩ := exec_of_result
    (s := ((s.accept (encode i)).after (.complete :: rd .status :: rest) _).popEvent) (i := i) hv
  have hturn := (step_complete rfl).trans ((engineTurn_command rfl (decode_encode hi)).trans hu)
  have hread := step_rd (s := u) (r := .status) (rest := rest) hdone.agenda (by simp)
  refine ⟨u.after rest [⟨some u.statusWord, true⟩],
    runs_step hcmd (runs_add hpolls (runs_step hturn (runs_one hread))), ?ran, rfl⟩
  case ran =>
    have hbusyWord : ((s.accept (encode i)).after (wait polls ++ rest) [⟨none, true⟩]).statusWord =
        BitVec.ofNat 64 (1 + 4 * s.err.toNat + 16 * s.errcode.toNat) := statusWord_eq _
    have hdoneWord : u.statusWord = BitVec.ofNat 64 (2 + 4 * s.err.toNat + 16 * s.errcode.toNat) := by
      rw [statusWord_eq, hdone.busy, hdone.done, hdone.err, hdone.errcode]
      rfl
    refine ⟨hv.trans (congrArg some hS.symm), hdone.cmd, hdone.busy, hdone.done, hdone.pending, hdone.err,
      hdone.errcode, ?_⟩
    change u.responses ++ [⟨some u.statusWord, true⟩] = _
    rw [hdone.responses, hdoneWord, handshakeResponses, ← hbusyWord]
    exact List.append_assoc _ _ _

/-! ### The obligations -/

/-- Settles O53: `runs_runCmd`, and `exec` on the first state leaves the same result. -/
theorem commandScriptRunsToCompletion : Obligations.CommandScriptRunsToCompletion := by
  intro s i polls rest hb _ hi ha
  obtain ⟨t, hrun, ht, hagenda⟩ := runs_runCmd hb hi ha
  obtain ⟨u, hu, -, hS⟩ := exec_of_result ht.result
  refine ⟨t, u, hu, hrun, hS.symm, ht.cmd, ht.busy, ht.done, ht.pending, ht.err, ht.errcode, hagenda, ?_⟩
  rw [ht.responses, handshakeResponses, List.append_assoc, List.append_assoc, List.append_assoc]

/-- Settles O54: HALF1 and HALF2 run their six commands one after another, and their results compose to the round. -/
theorem halfMacrosRunARound : Obligations.HalfMacrosRunARound := by
  intro s r p q rest hb _ hr ha
  have hwf : roundInRange r = true := decide_eq_true hr
  simp only [half1, half2, List.append_assoc] at ha
  obtain ⟨s1, hrun1, h1, ha1⟩ := runs_runCmd (i := .sbox) hb rfl ha
  obtain ⟨s2, hrun2, h2, ha2⟩ := runs_runCmd (i := .mdsMul) h1.busy rfl ha1
  obtain ⟨s3, hrun3, h3, ha3⟩ := runs_runCmd (i := .addArk1 r) h2.busy hwf ha2
  obtain ⟨s4, hrun4, h4, ha4⟩ := runs_runCmd (i := .invSbox) h3.busy rfl ha3
  obtain ⟨s5, hrun5, h5, ha5⟩ := runs_runCmd (i := .mdsMul) h4.busy rfl ha4
  obtain ⟨t, hrun6, h6, ha6⟩ := runs_runCmd (i := .addArk2 r) h5.busy hwf ha5
  have hrun := runs_add hrun1 (runs_add hrun2 (runs_add hrun3 (runs_add hrun4 (runs_add hrun5 hrun6))))
  refine ⟨t, _, exec_round hr s, ?run, ?result, h6.busy, h6.done, h6.pending, ?err, ?errcode, ha6⟩
  case run => exact runs_of_eq hrun (by omega)
  case result =>
    have r1 : sboxVec s.S = s1.S := Option.some.inj h1.result
    have r2 : matvec Config.rom.mds s1.S = s2.S := Option.some.inj h2.result
    have r3 : arkVec Config.rom.ark1 ⟨r.toNat, hr⟩ s2.S = s3.S := by
      simpa [commandResult, roundIndex_of_lt hr] using h3.result
    have r4 : invSboxVec s3.S = s4.S := Option.some.inj h4.result
    have r5 : matvec Config.rom.mds s4.S = s5.S := Option.some.inj h5.result
    have r6 : arkVec Config.rom.ark2 ⟨r.toNat, hr⟩ s5.S = t.S := by
      simpa [commandResult, roundIndex_of_lt hr] using h6.result
    rw [State.finish_S, roundVec, r1, r2, r3, r4, r5, r6]
  case err => rw [h6.err, h5.err, h4.err, h3.err, h2.err, h1.err]
  case errcode => rw [h6.errcode, h5.errcode, h4.errcode, h3.errcode, h2.errcode, h1.errcode]

end Sys2Proof.Machine
end

section
/-! HASH2 (30_encoding.md R74, 44_compressor.md R172): two loads, the command MERGE, and four reads of the digest. -/

namespace Sys2Proof.Machine

/-! ### Loads -/

/-- The elements of S from a on replaced by the words of a list, as `ld` writes them. -/
def storeFrom (S : Vec) : Nat → List Word → Vec
  | _, [] => S
  | a, v :: vs => storeFrom (if h : a < 12 then S.set a v h else S) (a + 1) vs

theorem storeFrom_get (S : Vec) (a : Nat) (vs : List Word) (j : Fin 12) :
    (storeFrom S a vs)[j] = if a ≤ j.val then (vs[j.val - a]?).getD S[j] else S[j] := by
  induction vs generalizing S a with
  | nil => simp [storeFrom]
  | cons v vs ih =>
    have hset : (if h : a < 12 then S.set a v h else S)[j] = if a = j.val then v else S[j] := by
      split
      · exact Vector.getElem_set _ j.isLt
      · rw [if_neg (by omega)]
    rw [storeFrom, ih, hset]
    obtain h | h | h := Nat.lt_trichotomy a j.val
    · have hindex : j.val - a = j.val - (a + 1) + 1 := by omega
      rw [if_pos (Nat.succ_le_of_lt h), if_neg h.ne, if_pos h.le, hindex, List.getElem?_cons_succ]
    · rw [if_neg (by omega), if_pos h, if_pos h.le, h, Nat.sub_self, List.getElem?_cons_zero, Option.getD_some]
    · rw [if_neg (by omega), if_neg h.ne', if_neg (by omega)]

theorem storeFrom_get_below (S : Vec) {a : Nat} (vs : List Word) {j : Fin 12} (h : j.val < a) :
    (storeFrom S a vs)[j] = S[j] := by
  rw [storeFrom_get, if_neg (Nat.not_le_of_lt h)]

theorem storeFrom_get_stored (S : Vec) {a : Nat} (v : Vector Word 4) {j : Fin 12} (h : a ≤ j.val)
    (hj : j.val - a < 4) : (storeFrom S a v.toList)[j] = v[j.val - a] := by
  rw [storeFrom_get, if_pos h]
  simp [hj]

/-- s after `ld` has stored the words of a list from element a on. -/
def State.load (s : State) (a : Nat) (vs : List Word) : State := { s with S := storeFrom s.S a vs }

theorem runs_ld (vs : List Word) {s : State} {a : Nat} {rest : List Event} (h : s.agenda = ld a vs ++ rest)
    (hb : s.busy = false) (hlen : a + vs.length ≤ 12) (hvs : ∀ v ∈ vs, Canonical v) :
    Runs vs.length s ((s.load a vs).after rest (List.replicate vs.length ⟨none, true⟩)) := by
  induction vs generalizing s a with
  | nil =>
    have hs : s.load a [] = s := rfl
    rw [hs, List.length_nil, List.replicate_zero, after_nil (rest := rest) h]
    exact runs_zero s
  | cons v vs ih =>
    rw [List.length_cons] at hlen
    have ha : a < 12 := by omega
    have hld : ld a (v :: vs) ++ rest = wr (.s ⟨a, ha⟩) v :: (ld (a + 1) vs ++ rest) := by simp [ld, ha]
    have hload : (s.setS ⟨a, ha⟩ v).load (a + 1) vs = s.load a (v :: vs) := by
      simp only [State.load, storeFrom, dif_pos ha, State.setS]
    have hfirst := step_store (h.trans hld) hb (hvs v List.mem_cons_self)
    have hrest := ih (s := (s.setS ⟨a, ha⟩ v).after (ld (a + 1) vs ++ rest) [⟨none, true⟩]) rfl hb (by omega)
      fun w hw => hvs w (List.mem_cons_of_mem v hw)
    have hafter : ((s.setS ⟨a, ha⟩ v).after (ld (a + 1) vs ++ rest) [⟨none, true⟩]).load (a + 1) vs =
        (s.load a (v :: vs)).after (ld (a + 1) vs ++ rest) [⟨none, true⟩] := by
      rw [← hload]
      rfl
    rw [hafter, after_after] at hrest
    exact runs_step hfirst hrest

/-- The load of a digest. -/
theorem runs_ld_digest (v : Vector Word 4) {s : State} {a : Nat} {rest : List Event}
    (h : s.agenda = ld a v.toList ++ rest) (hb : s.busy = false) (ha : a ≤ 8) (hv : ∀ i : Fin 4, Canonical v[i]) :
    Runs 4 s ((s.load a v.toList).after rest (List.replicate 4 ⟨none, true⟩)) := by
  have hlen : v.toList.length = 4 := Vector.length_toList
  have hmem : ∀ w ∈ v.toList, Canonical w := by
    intro w hw
    obtain ⟨i, hi, rfl⟩ := Vector.mem_iff_getElem.mp (Vector.mem_toList_iff.mp hw)
    exact hv ⟨i, hi⟩
  have hrun := runs_ld v.toList h hb (by omega) hmem
  rwa [hlen] at hrun

/-! ### The merged digest -/

/-- Two digests of four words fill the whole rate (10_state.md R21). -/
theorem spec_mergeInit_load (S : Vec) (A B : Vector Word 4) :
    Spec.mergeInit (Spec.nats (storeFrom (storeFrom S 4 A.toList) 8 B.toList)) = fun j : Fin 12 =>
      if j = 0 then 1 else if j.val < 4 then 0
      else if h : j.val < 8 then (A[j.val - 4]'(by omega)).toNat else (B[j.val - 8]'(by omega)).toNat := by
  funext j
  simp only [Spec.mergeInit, Spec.nats]
  split_ifs with hdomain hcapacity hlow
  · rfl
  · rfl
  · rw [storeFrom_get_below _ _ hlow, storeFrom_get_stored S A (by omega) (by omega)]
  · rw [storeFrom_get_stored _ B (by omega) (by omega)]

theorem digest_get (S : Vec) (i : Fin 4) : (digest S)[i] = S[4 + i.val] := by
  fin_cases i <;> rfl

/-! ### The script -/

/-- The answers of HASH2 before the digest is read: eight writes, the CMD write, and the polls. -/
def hash2Responses (s : State) (polls : Nat) : List Response :=
  List.replicate 8 ⟨none, true⟩ ++ handshakeResponses s polls

theorem hash2Responses_length (s : State) (polls : Nat) : (hash2Responses s polls).length = polls + 10 := by
  simp only [hash2Responses, handshakeResponses, List.length_append, List.length_replicate, List.length_singleton]
  omega

theorem hash2Responses_okay (s : State) (polls : Nat) : ∀ r ∈ hash2Responses s polls, r.okay = true := by
  simp only [hash2Responses, handshakeResponses, List.mem_append, List.mem_replicate, List.mem_singleton]
  rintro r (⟨-, rfl⟩ | (rfl | ⟨-, rfl⟩) | rfl) <;> rfl

theorem runs_hash2 {s : State} {A B : Vector Word 4} {polls : Nat} (hb : s.busy = false)
    (hcanonical : ∀ i : Fin 4, Canonical A[i] ∧ Canonical B[i]) (h : s.agenda = hash2 A B polls) :
    ∃ t, Runs (polls + 15) s t ∧
      t.S = mergeVec Config.rom (storeFrom (storeFrom s.S 4 A.toList) 8 B.toList) ∧
      t.responses = s.responses ++ hash2Responses s polls ++
        [⟨some (digest t.S)[0], true⟩, ⟨some (digest t.S)[1], true⟩, ⟨some (digest t.S)[2], true⟩,
          ⟨some (digest t.S)[3], true⟩] := by
  let reads : List Event := [rd (.s 4), rd (.s 5), rd (.s 6), rd (.s 7)]
  let sA := (s.load 4 A.toList).after (ld 8 B.toList ++ (runCmd .merge polls ++ reads)) (List.replicate 4 ⟨none, true⟩)
  let sB := (sA.load 8 B.toList).after (runCmd .merge polls ++ reads) (List.replicate 4 ⟨none, true⟩)
  have hA : Runs 4 s sA :=
    runs_ld_digest A (by simp only [h, hash2, List.append_assoc, reads]) hb (by omega) fun i => (hcanonical i).1
  have hB : Runs 4 sA sB := runs_ld_digest B rfl hb le_rfl fun i => (hcanonical i).2
  obtain ⟨u, hM, hu, hagenda⟩ := runs_runCmd (s := sB) (i := .merge) (polls := polls) (rest := reads) hb rfl rfl
  have hR := runs_rds [.s 4, .s 5, .s 6, .s 7] (s := u) (rest := []) hagenda fun _ _ _ _ => hu.busy
  have hrun := runs_add hA (runs_add hB (runs_add hM hR))
  refine ⟨u.after [] _, runs_of_eq hrun ?steps, (Option.some.inj hu.result).symm, ?responses⟩
  case steps =>
    simp only [List.length_cons, List.length_nil]
    omega
  case responses =>
    change u.responses ++ _ = _
    rw [hu.responses]
    simp [sB, sA, hash2Responses, handshakeResponses, State.after, State.load, digest, State.regValue]

/-- Settles O27: the digest is that of the merged state, whose rate the two loads have filled. -/
theorem hash2ReadsTheMergedDigest : Obligations.Hash2ReadsTheMergedDigest := by
  intro s A B polls hb _ hcanonical ha
  obtain ⟨t, hrun, hS, hresponses⟩ := runs_hash2 hb hcanonical ha
  refine ⟨t, digest t.S, hash2Responses s polls, hrun, hresponses, hash2Responses_length s polls,
    hash2Responses_okay s polls, fun i => ?_⟩
  have hnats : Spec.nats t.S = _ := (congrArg Spec.nats hS).trans (nats_mergeVec _ _)
  rw [spec_mergeInit_load] at hnats
  rw [digest_get]
  exact congrFun hnats ⟨4 + i.val, by omega⟩

end Sys2Proof.Machine
end
